-- ==== Sys2Proof/Word.lean ====
section
/-!
DEFINITION. The bit-vector types of the block: bytes, the host's address operand, the address on the wire.
-/

namespace Sys2Proof

/-- A byte: 8 bits, unsigned, bit 0 least significant (R7). -/
abbrev Byte := BitVec 8

/-- The host's address operand, `ADDR_W` = 32 bits unsigned (R6, R23). -/
abbrev Addr := BitVec 32

/-- The address a frame carries, 24 bits (R32, R93). -/
abbrev WireAddr := BitVec 24

end Sys2Proof
end

