-- ==== Sys2Proof/Config.lean ====
section
/-!
DEFINITION. The two ports of the block as types of events and answers (R9), the parameters (R6), and the free values:
what the environment answers.
-/

namespace Sys2Proof

/-- The three line ports (R9). -/
inductive Line where
  | ce | wp | hold
  deriving DecidableEq, Repr

/-- A level a line can be commanded to (R8). -/
inductive Drive where
  | low | high
  deriving DecidableEq, Repr

/-! ### The error values: two uninterpreted types (R6, D27) -/

/-- PARAMETER (R6, D27, U15): the transport's error values but one, any type at all. No body: nothing constrains it.
The order on it, which nothing uses, is there because it makes equality of states decidable (log 4). -/
opaque Config.busErrors : LinOrd.{0}

/-- PARAMETER (R6, D27, U15): a line's error values but one, any type at all (log 4). -/
opaque Config.lineErrors : LinOrd.{0}

/-- How an error value of an uninterpreted type is printed: its value is not known. -/
abbrev printOpaque (E : LinOrd.{0}) : Repr E := ⟨fun _ _ => "_"⟩

/-- A nonempty type made of a type `E`: one value by name, and those of `E`. Every nonempty type is of this form (log 4). -/
inductive ErrorValue (E : LinOrd.{0}) [Repr E] where
  | named
  | other (e : E)
  deriving DecidableEq, Repr

/-- `E_BUS`, the open type of the transport's opaque error value (R6, R9, D27): the block copies it and never inspects it. -/
structure BusError where
  value : @ErrorValue Config.busErrors (printOpaque Config.busErrors)
  deriving DecidableEq, Repr

/-- `E_LINE`, the open type of a line's opaque error value (R6, R9, D27): the block copies it and never inspects it. -/
structure LineError where
  value : @ErrorValue Config.lineErrors (printOpaque Config.lineErrors)
  deriving DecidableEq, Repr

/-- The one value of `E_BUS` that has a name, for a run to be written out with (log 4). -/
def BusError.named : BusError := ⟨@ErrorValue.named Config.busErrors (printOpaque Config.busErrors)⟩

/-- The one value of `E_LINE` that has a name, for a run to be written out with (log 4). -/
def LineError.named : LineError := ⟨@ErrorValue.named Config.lineErrors (printOpaque Config.lineErrors)⟩

/-- The answer to a bus exchange: `ok(rx)` or `fail(e)` (R8, R9). -/
inductive BusReply where
  | ok (rx : List Byte)
  | fail (e : BusError)
  deriving DecidableEq, Repr

/-- One port event: a line command or a bus exchange (R8, R28). -/
inductive Event where
  | lineSet (l : Line) (v : Drive)
  | xfer (tx : List Byte)
  deriving DecidableEq, Repr

/-- One entry of the event trace: an event with the environment's answer (R12).
A line command is answered `none` for `ok` and `some e` for `fail(e)`. -/
inductive Entry where
  | lineSet (l : Line) (v : Drive) (reply : Option LineError)
  | xfer (tx : List Byte) (reply : BusReply)
  deriving DecidableEq, Repr

/-- The error value of a `fail(e)` before it is fitted to its event (log 3): `e : E_BUS` if the event is an exchange, `e : E_LINE` if
it is a line command (R8). The event takes the one of its own type. -/
structure Failure where
  bus : BusError
  line : LineError
  deriving DecidableEq, Repr

/-- What the environment decides at one event, before it is fitted to the event (log 2, log 3): `ok`, with the response bytes
if the event is an exchange, or `fail`, with the error value. -/
inductive Answer where
  | ok (rx : List Byte)
  | fail (e : Failure)
  deriving DecidableEq, Repr, Inhabited

/-- How `read<L>` divides its bytes into exchanges (R6, R137, R138). -/
inductive ReadFraming where
  | split | joined
  deriving DecidableEq, Repr

/-- The parameters the spec asks a model to carry as fields (R6, R14): three decided values, and the two bounds it leaves open. -/
structure Config where
  /-- The byte of the middle transaction of `write_status` (R91, D8). -/
  wsPrelude : Byte
  /-- The framing of `read<L>` (R137, R138, D9). -/
  readFraming : ReadFraming
  /-- The wire address of the one accepted operand that needs 25 bits, 0x1000000 (R123, D6). -/
  topWireAddr : WireAddr
  /-- `L_MAX`, the upper bound of L, open: `none` is no bound (R6, D10; log 11). -/
  lMax : Option Nat
  /-- `BUF_MAX`, the upper bound of the length of an `aai_program` buffer, open: `none` is no bound (R6, D25; log 11). -/
  bufMax : Option Nat
  deriving DecidableEq, Repr

/-- The decided values: 0x00 (D8), split (D9), 00 00 00 (D6); no bound of L and LEN, as in the source (D10, D25). -/
def Config.decided : Config where
  wsPrelude := 0x00
  readFraming := .split
  topWireAddr := 0x000000
  lMax := none
  bufMax := none

/-- Whether a length is within an upper bound; `none` bounds nothing. -/
def withinBound (n : Nat) : Option Nat → Bool
  | none => true
  | some m => decide (n ≤ m)

/-- `MAX_ADDRESS` = 16,777,216 = 0x1000000, the largest accepted address operand (R6, R121). -/
def Config.maxAddress : Addr := 0x1000000

/-- `DUMMY`, the value of every dummy byte the block sends (R6, R96). -/
def Config.dummy : Byte := 0x00

/-- FREE VALUE (R10, D32): what the environment answers to an event, after the events of the given trace, where no answer is
fixed in advance. No body: nothing constrains it (log 2). -/
opaque Config.envAnswer : List Entry → Event → Answer

/-- FREE VALUE (U6, U8): the response byte at an index where the environment's answer gives none (log 3). -/
opaque Config.envByte : List Entry → Nat → Byte

end Sys2Proof
end

