-- ==== Sys2Proof/Syntax.lean ====
section
/-!
DEFINITION. The instruction set of both levels (R3): the nine host operations (R80) and the ten wire frames (R82), one
constructor per row of spec/opcode_table.json, and the status record their operands use.
-/

namespace Sys2Proof

/-- The Status record: one boolean per bit of the chip's status register, in bit order (R112). -/
structure Status where
  busy : Bool
  writeEnabled : Bool
  block0Protected : Bool
  block1Protected : Bool
  block2Protected : Bool
  block3Protected : Bool
  aaiProgrammingMode : Bool
  bitsReadOnly : Bool
  deriving DecidableEq, Repr

/-- The five fields a `WRSR` frame carries: "the four block-protect bits and the read-only-bits bit" (R86, R112). -/
structure Protection where
  block0Protected : Bool
  block1Protected : Bool
  block2Protected : Bool
  block3Protected : Bool
  bitsReadOnly : Bool
  deriving DecidableEq, Repr

/-- The instruction set: host operations first, wire frames after them, in the order of spec/opcode_table.json. -/
inductive Instr where
  /-- `read_status()`, OP 0x0 (R150). -/
  | readStatus
  /-- `write_enable()`, OP 0x1 (R151). -/
  | writeEnable
  /-- `write_disable()`, OP 0x2 (R152). -/
  | writeDisable
  /-- `write_status(status)`, OP 0x3 (R153). -/
  | writeStatus (st : Status)
  /-- `erase_full()`, OP 0x4 (R190). -/
  | eraseFull
  /-- `byte_program(address, data)`, OP 0x5 (R170). -/
  | byteProgram (a : Addr) (d : Byte)
  /-- `aai_program(address, buffer)`, OP 0x6 (R172). -/
  | aaiProgram (a : Addr) (buf : List Byte)
  /-- `read<L>(address)`, OP 0x7 (R193). -/
  | read (a : Addr) (l : Nat)
  /-- `set_blocking(b)`, OP 0x8 (R214). -/
  | setBlocking (b : Bool)
  /-- `RDSR`, read the status register (R85). -/
  | rdsr
  /-- `WREN`, write-enable (R84). -/
  | wren
  /-- `WRDI`, write-disable (R84). -/
  | wrdi
  /-- `WRSR`, write the status register (R86). -/
  | wrsr (p : Protection)
  /-- `BYTE_PROG`, program one byte (R87). -/
  | byteProg (a : WireAddr) (d : Byte)
  /-- `AAI_FIRST`, the first chunk of an auto-address-increment program (R88). -/
  | aaiFirst (a : WireAddr) (x y : Byte)
  /-- `AAI_NEXT`, a later chunk (R89). -/
  | aaiNext (x y : Byte)
  /-- `CHIP_ERASE`, erase the whole chip (R84). -/
  | chipErase
  /-- `READ`, the 4 command bytes and the L dummy bytes after them (R90). -/
  | readMem (a : WireAddr) (l : Nat)
  /-- `WS_PRELUDE`, the middle frame of `write_status` (R91). -/
  | wsPrelude
  deriving DecidableEq, Repr

/-- A host request as it stands at the host port: the 4-bit OP code with the operand fields beside it (R80, D2).
An operand the operation does not use is ignored. -/
structure Request where
  op : BitVec 4
  addr : Addr
  data : Byte
  statIn : Status
  buf : List Byte
  rlen : Nat
  b : Bool
  deriving DecidableEq, Repr

/-- An encoded instruction: a request at the host port, or the bytes of one chip-enable window, byte 0 first (R82). -/
inductive Encoded where
  | request (r : Request)
  | frame (bytes : List Byte)
  deriving DecidableEq, Repr

/-- Why a word encodes no instruction. -/
inductive DecodeError where
  /-- OP codes 0x9 to 0xF name no operation (R81). -/
  | reservedOp (code : BitVec 4)
  /-- `read<L>` with L = 0 (R195), in a request or as a READ frame with no dummy byte. -/
  | readLengthZero
  /-- A window with no byte: every frame has at least one (R136). -/
  | emptyFrame
  /-- Byte 0 is none of the eight opcodes nor the prelude byte (R97). -/
  | badOpcode (opcode : Byte)
  /-- Byte 0 is an opcode, but no frame of this length has it (R82, R97). -/
  | badLength (opcode : Byte) (len : Nat)
  /-- A dummy byte that is not `DUMMY` (R96). -/
  | badDummy (opcode : Byte)
  /-- The status byte of a WRSR frame has bit 0, 1 or 6 set (R86, R94). -/
  | badStatusBits (status : Byte)
  deriving DecidableEq, Repr

end Sys2Proof
end

