-- ==== Sys2Proof/WellFormed.lean ====
section
/-!
DEFINITION. Which terms of `Instr` are instructions: the length of a read is at least 1 (R195, R136). Every other operand
is legal at every value of its type; an operand an operation rejects (an address too large, an odd buffer) is an ordinary
error result, not an ill-formed request (R250: "with any operand values").
-/

namespace Sys2Proof

/-- Whether an instruction is well formed. -/
def Instr.wf : Instr → Bool
  | .read _ l => decide (1 ≤ l)
  | .readMem _ l => decide (1 ≤ l)
  | .readStatus => true
  | .writeEnable => true
  | .writeDisable => true
  | .writeStatus _ => true
  | .eraseFull => true
  | .byteProgram _ _ => true
  | .aaiProgram _ _ => true
  | .setBlocking _ => true
  | .rdsr => true
  | .wren => true
  | .wrdi => true
  | .wrsr _ => true
  | .byteProg _ _ => true
  | .aaiFirst _ _ _ => true
  | .aaiNext _ _ => true
  | .chipErase => true
  | .wsPrelude => true

/-- Whether the configured bounds of L and of the buffer's length admit a host request (R6, R195, D10, D25; log 11). -/
def Config.admits (cfg : Config) : Instr → Bool
  | .read _ l => withinBound l cfg.lMax
  | .aaiProgram _ buf => withinBound buf.length cfg.bufMax
  | .readStatus => true
  | .writeEnable => true
  | .writeDisable => true
  | .writeStatus _ => true
  | .eraseFull => true
  | .byteProgram _ _ => true
  | .setBlocking _ => true
  | .rdsr => true
  | .wren => true
  | .wrdi => true
  | .wrsr _ => true
  | .byteProg _ _ => true
  | .aaiFirst _ _ _ => true
  | .aaiNext _ _ => true
  | .chipErase => true
  | .readMem _ _ => true
  | .wsPrelude => true

/-- Whether an instruction is a host operation, rather than a wire frame (R3). -/
def Instr.isHostOp : Instr → Bool
  | .readStatus => true
  | .writeEnable => true
  | .writeDisable => true
  | .writeStatus _ => true
  | .eraseFull => true
  | .byteProgram _ _ => true
  | .aaiProgram _ _ => true
  | .read _ _ => true
  | .setBlocking _ => true
  | .rdsr => false
  | .wren => false
  | .wrdi => false
  | .wrsr _ => false
  | .byteProg _ _ => false
  | .aaiFirst _ _ _ => false
  | .aaiNext _ _ => false
  | .chipErase => false
  | .readMem _ _ => false
  | .wsPrelude => false

end Sys2Proof
end

