-- ==== Sys2Proof/Decode.lean ====
section
/-!
DEFINITION. The encodings: the bytes of each wire frame (R82 to R91), the decoder of requests and frames, total and
rejecting by name, the encoder, and the opcode table's numbering of a word.
-/

namespace Sys2Proof

/-! ### Fields -/

/-- A byte with the one bit `n` set to `b`. -/
def bitAt (b : Bool) (n : Nat) : Byte := if b then 1#8 <<< n else 0#8

/-- The three address bytes, most significant first (R50, R93). -/
def addrField (a : WireAddr) : List Byte :=
  [a.extractLsb' 16 8, a.extractLsb' 8 8, a.extractLsb' 0 8]

/-- The wire address that three address bytes stand for (R124). -/
def addrOfField (b2 b1 b0 : Byte) : WireAddr :=
  (b2.setWidth 24 <<< 16) ||| (b1.setWidth 24 <<< 8) ||| b0.setWidth 24

/-- The status byte of a WRSR frame: bits 2 to 5 and 7 from the operand, bits 0, 1 and 6 always 0 (R94, R111). -/
def protectionByte (p : Protection) : Byte :=
  bitAt p.block0Protected 2 ||| bitAt p.block1Protected 3 ||| bitAt p.block2Protected 4 |||
    bitAt p.block3Protected 5 ||| bitAt p.bitsReadOnly 7

/-- The five writable bits of a status byte (R94). -/
def protectionOfByte (b : Byte) : Protection where
  block0Protected := b.getLsbD 2
  block1Protected := b.getLsbD 3
  block2Protected := b.getLsbD 4
  block3Protected := b.getLsbD 5
  bitsReadOnly := b.getLsbD 7

/-- `zeros(n)`: n dummy bytes (R7, R96). -/
def zeros (n : Nat) : List Byte := List.replicate n Config.dummy

/-! ### The bytes of the ten frames -/

/-- `[0x05, 0x00]` (R85). -/
def rdsrBytes : List Byte := [0x05, Config.dummy]

/-- `[0x06]` (R84). -/
def wrenBytes : List Byte := [0x06]

/-- `[0x04]` (R84). -/
def wrdiBytes : List Byte := [0x04]

/-- `[0x01, status]` (R86). -/
def wrsrBytes (status : Byte) : List Byte := [0x01, status]

/-- `[0x02] ++ addr ++ [d]` (R87). -/
def byteProgBytes (a : WireAddr) (d : Byte) : List Byte := 0x02 :: (addrField a ++ [d])

/-- `[0xAD] ++ addr ++ [x, y]` (R88). -/
def aaiFirstBytes (a : WireAddr) (x y : Byte) : List Byte := 0xAD :: (addrField a ++ [x, y])

/-- `[0xAD, x, y]` (R89). -/
def aaiNextBytes (x y : Byte) : List Byte := [0xAD, x, y]

/-- `[0x60]` (R84). -/
def chipEraseBytes : List Byte := [0x60]

/-- The 4 command bytes of READ, `[0x03] ++ addr` (R90). -/
def readCommand (a : WireAddr) : List Byte := 0x03 :: addrField a

/-- The one byte of WS_PRELUDE (R91). -/
def preludeBytes (pre : Byte) : List Byte := [pre]

/-- Whether bytes are the command part of a READ frame, told by byte 0 and the length (R98). -/
def isReadCommand (bytes : List Byte) : Bool :=
  decide (bytes.length = 4) && decide (bytes.head? = some (0x03 : Byte))

/-! ### The decoder -/

/-- The instruction a host request names: its OP code, with the operands that operation uses (R80, R81, R195). -/
def decodeRequest (r : Request) : Except DecodeError Instr :=
  match r.op.toNat with
  | 0 => .ok .readStatus
  | 1 => .ok .writeEnable
  | 2 => .ok .writeDisable
  | 3 => .ok (.writeStatus r.statIn)
  | 4 => .ok .eraseFull
  | 5 => .ok (.byteProgram r.addr r.data)
  | 6 => .ok (.aaiProgram r.addr r.buf)
  | 7 => if r.rlen = 0 then .error .readLengthZero else .ok (.read r.addr r.rlen)
  | 8 => .ok (.setBlocking r.b)
  | _ => .error (.reservedOp r.op)

/-- A window of one byte: the three one-byte opcodes, then the prelude byte (R84, R91, R98; log 22). -/
def decodeOneByte (pre o : Byte) : Except DecodeError Instr :=
  if o = 0x06 then .ok .wren
  else if o = 0x04 then .ok .wrdi
  else if o = 0x60 then .ok .chipErase
  else if o = pre then .ok .wsPrelude
  else if o = 0x05 ∨ o = 0x01 ∨ o = 0x02 ∨ o = 0xAD ∨ o = 0x03 then .error (.badLength o 1)
  else .error (.badOpcode o)

/-- A window of two or more bytes (R85 to R90, R98; log 22). -/
def decodeLonger (o : Byte) (rest : List Byte) : Except DecodeError Instr :=
  if o = 0x05 then
    match rest with
    | [d] => if d = Config.dummy then .ok .rdsr else .error (.badDummy o)
    | _ => .error (.badLength o (rest.length + 1))
  else if o = 0x01 then
    match rest with
    | [b] => if b &&& 0x43 = 0 then .ok (.wrsr (protectionOfByte b)) else .error (.badStatusBits b)
    | _ => .error (.badLength o (rest.length + 1))
  else if o = 0x02 then
    match rest with
    | [a2, a1, a0, d] => .ok (.byteProg (addrOfField a2 a1 a0) d)
    | _ => .error (.badLength o (rest.length + 1))
  else if o = 0xAD then
    match rest with
    | [x, y] => .ok (.aaiNext x y)
    | [a2, a1, a0, x, y] => .ok (.aaiFirst (addrOfField a2 a1 a0) x y)
    | _ => .error (.badLength o (rest.length + 1))
  else if o = 0x03 then
    match rest with
    | [_, _, _] => .error .readLengthZero
    | a2 :: a1 :: a0 :: z :: zs =>
      if (z :: zs).all (fun b => b == Config.dummy) then .ok (.readMem (addrOfField a2 a1 a0) (zs.length + 1))
      else .error (.badDummy o)
    | _ => .error (.badLength o (rest.length + 1))
  else if o = 0x06 ∨ o = 0x04 ∨ o = 0x60 then .error (.badLength o (rest.length + 1))
  else .error (.badOpcode o)

/-- The wire frame that the bytes of one chip-enable window are: byte 0 with the number of bytes (R98). -/
def decodeFrame (pre : Byte) (bytes : List Byte) : Except DecodeError Instr :=
  match bytes with
  | [] => .error .emptyFrame
  | [o] => decodeOneByte pre o
  | o :: b :: rest => decodeLonger o (b :: rest)

/-- The decoder, total on any word; `pre` is the configured prelude byte. -/
def decode (pre : Byte) : Encoded → Except DecodeError Instr
  | .request r => decodeRequest r
  | .frame bytes => decodeFrame pre bytes

/-! ### The encoder -/

/-- The request with OP code `code` and every operand at its least value: zero bits, no buffer byte, L = 1. -/
def Request.bare (code : BitVec 4) : Request where
  op := code
  addr := 0
  data := 0
  statIn := ⟨false, false, false, false, false, false, false, false⟩
  buf := []
  rlen := 1
  b := false

/-- The encoder: the request that names a host operation (R80), the bytes of a wire frame (R82 to R91). -/
def encode (pre : Byte) : Instr → Encoded
  | .readStatus => .request (Request.bare 0x0)
  | .writeEnable => .request (Request.bare 0x1)
  | .writeDisable => .request (Request.bare 0x2)
  | .writeStatus st => .request { Request.bare 0x3 with statIn := st }
  | .eraseFull => .request (Request.bare 0x4)
  | .byteProgram a d => .request { Request.bare 0x5 with addr := a, data := d }
  | .aaiProgram a buf => .request { Request.bare 0x6 with addr := a, buf := buf }
  | .read a l => .request { Request.bare 0x7 with addr := a, rlen := l }
  | .setBlocking b => .request { Request.bare 0x8 with b := b }
  | .rdsr => .frame rdsrBytes
  | .wren => .frame wrenBytes
  | .wrdi => .frame wrdiBytes
  | .wrsr p => .frame (wrsrBytes (protectionByte p))
  | .byteProg a d => .frame (byteProgBytes a d)
  | .aaiFirst a x y => .frame (aaiFirstBytes a x y)
  | .aaiNext x y => .frame (aaiNextBytes x y)
  | .chipErase => .frame chipEraseBytes
  | .readMem a l => .frame (readCommand a ++ zeros l)
  | .wsPrelude => .frame (preludeBytes pre)

/-! ### The opcode table's words (log 12) -/

/-- The bytes of a table word, byte 0 first: the table numbers bit 0 as the last bit sent (R105). -/
def tableBytes (nbits w : Nat) : List Byte :=
  let n := (nbits + 7) / 8
  (List.range n).map (fun i => BitVec.ofNat 8 (w >>> (8 * (n - 1 - i))))

/-- A request from a table word: the 4-bit code, with zero operands; the AAI buffer has two zero bytes, L is 1 (log 12). -/
def tableRequest (w : Nat) : Encoded :=
  let code := BitVec.ofNat 4 w
  if code = 0x6 then .request { Request.bare code with buf := zeros 2 } else .request (Request.bare code)

/-- A window from a table word: the frame's bytes, and one dummy byte after the command of a READ. -/
def tableWindow (nbits w : Nat) : Encoded :=
  let bytes := tableBytes nbits w
  if isReadCommand bytes then .frame (bytes ++ zeros 1) else .frame bytes

/-- A row of the opcode table by its width and word (R105): the HOST rows are 4 bits wide and the frames 8 bits a byte. A 4-bit word
that is given in a whole byte is still read as a request where the byte is no frame (log 12). -/
def tableEncoded (nbits w : Nat) : Encoded :=
  if nbits < 8 then tableRequest w
  else if nbits = 8 ∧ w < 16 ∧ (decode Config.decided.wsPrelude (tableWindow nbits w)).toBool = false then tableRequest w
  else tableWindow nbits w

/-- The instruction the decoder reads from a word of spec/opcode_table.json. -/
def decodeTableWord (nbits w : Nat) : Option Instr :=
  (decode Config.decided.wsPrelude (tableEncoded nbits w)).toOption

end Sys2Proof
end

