-- ==== Sys2Proof/Machine/State.lean ====
section
/-!
DEFINITION. The state of the block (spec file 10_state.md), its results and error kinds (R230), the reasons a step stops,
and the state after reset (R261).
-/

namespace Sys2Proof.Machine

/-- The operation code OP (S3, R23), as the operation's name; the 4-bit codes are those of `decodeRequest` (log 6). -/
inductive HostOp where
  | readStatus | writeEnable | writeDisable | writeStatus | eraseFull | byteProgram | aaiProgram | read | setBlocking
  deriving DecidableEq, Repr

/-- The sequencer phase PHASE (S13), its ten values (R27). -/
inductive Phase where
  | idle | validate | cfgHold | cfgWp | ceLow | xfer | xfer2 | ceHigh | next | respond
  deriving DecidableEq, Repr

/-- Which transaction of the operation the block is in (log 7): the part of "where in the current operation the block
stands" (R27) that PHASE leaves out. -/
inductive Stage where
  /-- The write-enable handshake: the WREN frame that begins a writing operation. -/
  | enable
  /-- The status read of `AssertNotBusy()` (R211). -/
  | check
  /-- The middle transaction of `write_status` (R153). -/
  | middle
  /-- The operation's primary frame. -/
  | main
  /-- A later chunk of `aai_program` (R172). -/
  | chunk
  /-- A poll of `Wait(forced)` (R210). -/
  | poll
  /-- The closing WRDI of `aai_program` (R172). -/
  | disable
  deriving DecidableEq, Repr

/-- The level a line was last commanded to; `x` is "not known" (R13, R29). -/
inductive Level where
  | low | high | x
  deriving DecidableEq, Repr

/-- XRES: the answer of the exchange, held while CE is released (S11, R25). -/
inductive XRes where
  | ok
  | fail (e : BusError)
  deriving DecidableEq, Repr

/-- The eight error kinds with their payloads (R230). -/
inductive OpError where
  | transferFailure (e : BusError)
  | enableLineFailure (e : LineError)
  | holdLineFailure (e : LineError)
  | writeProtectLineFailure (e : LineError)
  | busy
  | invalidAddress
  | bufferTooSmall
  | bufferUneven
  deriving DecidableEq, Repr

/-- The value of a successful operation: unit, a Status, or L bytes (R80). -/
inductive OpValue where
  | unit
  | status (st : Status)
  | bytes (bs : List Byte)
  deriving DecidableEq, Repr

/-- The result of an operation: `Ok(v)` or `Err(kind, info)` (R8). -/
inductive OpResult where
  | ok (v : OpValue)
  | err (k : OpError)
  deriving DecidableEq, Repr

/-- What is observed when a result is returned: the result and the two persistent bits after it (R12 b and c). -/
structure Report where
  result : OpResult
  configured : Bool
  blocking : Bool
  deriving DecidableEq, Repr

/-- The faults that stop the machine: there are none. The eight error kinds are ordinary results (R244) and the unbounded
wait is an infinite run (R276); the type has no constructor (log 14). -/
inductive Fault
  deriving DecidableEq, Repr

/-- The reasons the machine gives an instruction no transition. Each is safe: the model stops, no claim follows. -/
inductive Refusal where
  /-- Raised by `exec` alone, for an instruction without a meaning. There is none in this model. Safe. -/
  | notModelled (mnemonic : String)
  /-- Raised by `step` for a request with OP code 0x9 to 0xF (R81, U2). Safe. -/
  | reservedOp (code : BitVec 4)
  /-- Raised by `step`, by `read<L>` and by the READ frame, for L = 0 (R195, U3). Safe. -/
  | readLengthZero
  /-- Raised by `read<L>` and `aai_program` for a request above a configured bound `L_MAX` or `BUF_MAX`, which the decided
  configuration does not have (R6, D10, D25, U14; log 11). Safe. -/
  | aboveBound
  /-- Raised by a host operation requested while the block is not in IDLE (R250, U4). Safe. -/
  | notIdle
  /-- Raised by `step` at the start of a transaction whose FRAME is no frame of R82, which no run reaches (R97; log 13). Safe. -/
  | notAFrame
  deriving DecidableEq, Repr

/-- The state: S1 to S14 of 10_state.md under their own names, then the model's own fields. -/
structure State where
  /-- S1 (R20). -/
  configured : Bool
  /-- S2 (R21). -/
  blocking : Bool
  /-- S3 OP (R23). -/
  op : HostOp
  /-- S4 ADDR (R23). -/
  addr : Addr
  /-- S5 DATA (R23). -/
  data : Byte
  /-- S6 STAT_IN (R23). -/
  statIn : Status
  /-- S7 BUF; LEN is its length (R23). -/
  buf : List Byte
  /-- S8 RLEN (R23). -/
  rlen : Nat
  /-- The model's own latch for the request field B of `set_blocking` (D2, R214), from acceptance to the write of the flag. R23 names
  none for it (log 26). -/
  bIn : Bool
  /-- S9 FRAME (R24). -/
  frame : List Byte
  /-- S10 RX (R24). -/
  rx : List Byte
  /-- S11 XRES (R25). -/
  xres : XRes
  /-- S12 IDX (R26). -/
  idx : Nat
  /-- S13 PHASE (R27). -/
  phase : Phase
  /-- The model's own: which transaction of the operation (log 7). -/
  stage : Stage
  /-- S14 CE_LVL (R29). -/
  ce : Level
  /-- S14 WP_LVL (R29). -/
  wp : Level
  /-- S14 HOLD_LVL (R29). -/
  hold : Level
  /-- The model's own: the result presented to the host in RESPOND (R27; log 8). -/
  result : Option OpResult
  /-- The model's own: the results returned so far, oldest first (R12; log 8). -/
  results : List Report
  /-- The model's own: the event trace, oldest first (R12; log 8). -/
  trace : List Entry
  /-- The model's own: the host's requests still to be issued (R10; log 1). -/
  program : List Request
  /-- The model's own: the environment's answers already fixed, first one next (R10; log 2). -/
  answers : List Answer
  /-- The model's own: the configuration, which no step changes (R6, R14; log 9). -/
  cfg : Config
  deriving DecidableEq, Repr

/-- LEN, the length of the latched buffer (R23). -/
def State.len (s : State) : Nat := s.buf.length

/-- The state after reset (R261). The latches and work registers, whose reset values are unspecified, hold the values of
log 5 (DESIGN CHOICE). -/
def State.reset : State where
  configured := false
  blocking := true
  op := .readStatus
  addr := 0
  data := 0
  statIn := ⟨false, false, false, false, false, false, false, false⟩
  buf := []
  rlen := 1
  bIn := false
  frame := []
  rx := []
  xres := .ok
  idx := 0
  phase := .idle
  stage := .main
  ce := .x
  wp := .x
  hold := .x
  result := none
  results := []
  trace := []
  program := []
  answers := []
  cfg := Config.decided

end Sys2Proof.Machine
end

