-- ==== Sys2Proof/Machine/Flags.lean ====
section
/-!
DEFINITION. The status-register codec (spec file 40_status_codec.md), the one status bit that steers the block (R30), and the
numeric codes of the results.
-/

namespace Sys2Proof.Machine

/-- `decode(r)`: bit n is field n (R110). -/
def decodeStatus (r : Byte) : Status where
  busy := r.getLsbD 0
  writeEnabled := r.getLsbD 1
  block0Protected := r.getLsbD 2
  block1Protected := r.getLsbD 3
  block2Protected := r.getLsbD 4
  block3Protected := r.getLsbD 5
  aaiProgrammingMode := r.getLsbD 6
  bitsReadOnly := r.getLsbD 7

/-- The writable fields of a Status (R112). -/
def protectionOf (st : Status) : Protection where
  block0Protected := st.block0Protected
  block1Protected := st.block1Protected
  block2Protected := st.block2Protected
  block3Protected := st.block3Protected
  bitsReadOnly := st.bitsReadOnly

/-- `encode(st)`: only the five writable bits, the others 0 (R111). -/
def encodeStatus (st : Status) : Byte := protectionByte (protectionOf st)

/-- The status byte of the latest RDSR response: byte 1, byte 0 being ignored (R85, R92).
A response shorter than its frame occurs in no run (R136); the byte is then 0 (log 17). -/
def statusByte (s : State) : Byte := s.rx.getD 1 0

/-- The `busy` bit of the latest status response (R30, R210, R211). -/
def busyBit (s : State) : Bool := (decodeStatus (statusByte s)).busy

/-- The numeric code of an error kind, for a numeric error port (R230, D18). -/
def errorCode : OpError → Nat
  | .transferFailure _ => 1
  | .enableLineFailure _ => 2
  | .holdLineFailure _ => 3
  | .writeProtectLineFailure _ => 4
  | .busy => 5
  | .invalidAddress => 6
  | .bufferTooSmall => 7
  | .bufferUneven => 8

/-- The numeric code of a result: 0 means Ok (D18). -/
def resultCode : OpResult → Nat
  | .ok _ => 0
  | .err k => errorCode k

end Sys2Proof.Machine
end

