-- ==== Sys2Proof/Machine/Operands.lean ====
section
/-!
DEFINITION. The operands of the frames, taken from the operand latches (R24): address check and address field (spec file
41_address.md), the data bytes (R95), the bytes of a READ window (R137, R138) and its result.
-/

namespace Sys2Proof.Machine

/-- `validate(a)`: whether the address is accepted (R120). -/
def addressAccepted (a : Addr) : Bool := decide (a ≤ Config.maxAddress)

/-- `addr_bytes(a)` as a 24-bit number: bits 23 to 0 of the operand (R122); the bytes of 0x1000000, which the source leaves
open, are a configuration field (R123, D6). -/
def wireAddress (cfg : Config) (a : Addr) : WireAddr :=
  if a = 0x1000000 then cfg.topWireAddr else a.extractLsb' 0 24

/-- Byte `i` of the latched buffer. Every index the block uses is below LEN (R100); beyond it the byte is 0 (log 17). -/
def bufByte (s : State) (i : Nat) : Byte := s.buf.getD i 0

/-- The frame of `byte_program` (R87). -/
def byteProgFrame (s : State) : List Byte := byteProgBytes (wireAddress s.cfg s.addr) s.data

/-- The first chunk of `aai_program` (R88, R95). -/
def aaiFirstFrame (s : State) : List Byte :=
  aaiFirstBytes (wireAddress s.cfg s.addr) (bufByte s 0) (bufByte s 1)

/-- Chunk IDX of `aai_program` (R89, R26). -/
def aaiNextFrame (s : State) : List Byte := aaiNextBytes (bufByte s (2 * s.idx)) (bufByte s (2 * s.idx + 1))

/-- What FRAME holds when a READ window of L data bytes at a wire address opens: the command alone when the framing is split
(R137), the command and the dummy bytes when it is joined (R138). -/
def readFrame (cfg : Config) (a : WireAddr) (l : Nat) : List Byte :=
  match cfg.readFraming with
  | .split => readCommand a
  | .joined => readCommand a ++ zeros l

/-- Whether a second exchange, of L dummy bytes, follows the exchange of FRAME in the same window (R137). -/
def dataExchangeFollows (s : State) : Bool :=
  match s.cfg.readFraming with
  | .split => isReadCommand s.frame
  | .joined => false

/-- The bytes that the window about to open sends while the chip is selected (R82, R98). -/
def windowBytes (s : State) : List Byte :=
  if dataExchangeFollows s then s.frame ++ zeros s.rlen else s.frame

/-- The L bytes of a finished READ: the whole data response (R137), or the joined response less its first 4 bytes (R138). -/
def readData (s : State) : List Byte :=
  match s.cfg.readFraming with
  | .split => s.rx
  | .joined => s.rx.drop 4

end Sys2Proof.Machine
end

