-- ==== Sys2Proof/Machine/Ops.lean ====
section
/-!
DEFINITION. The operations that the instructions share: the two port events (R9, R28), raising an error and returning
(R236, R27), the command transaction as phases (spec file 42_transaction.md), the idle check and the wait (spec file
46_busy_wait.md), and the sequencer that runs an operation's own part between them.
-/

namespace Sys2Proof.Machine

/-! ### Port events -/

/-- The environment's answer to an event: the next fixed answer, or a free value where none is fixed (R10; log 2). -/
def answerTo (e : Event) (s : State) : Answer × State :=
  match s.answers with
  | a :: rest => (a, { s with answers := rest })
  | [] => (Config.envAnswer s.trace e, s)

/-- The `n` response bytes that an answer gives after a trace: byte `i` of the answer, a free byte where the answer has none
(R136: a response is as long as its frame; log 3). -/
def fitResponse (trace : List Entry) (n : Nat) (rx : List Byte) : List Byte :=
  (List.range n).map (fun i => rx.getD i (Config.envByte trace i))

/-- The level a line has after a command to drive it (R29). -/
def Drive.level : Drive → Level
  | .low => .low
  | .high => .high

/-- Records the level of a line (R29). -/
def State.setLevel (l : Line) (v : Level) (s : State) : State :=
  match l with
  | .ce => { s with ce := v }
  | .wp => { s with wp := v }
  | .hold => { s with hold := v }

/-- Appends an event with its answer to the trace (R12). -/
def State.record (e : Entry) (s : State) : State := { s with trace := s.trace ++ [e] }

/-- `LineSet(l, v)` (R8, D4): `none` for `ok`, and the level is then `v`; `some e` for `fail(e)`, and it is then X (R29). -/
def lineSet (l : Line) (v : Drive) (s : State) : Option LineError × State :=
  match answerTo (.lineSet l v) s with
  | (.ok _, s1) => (none, (s1.setLevel l (Drive.level v)).record (.lineSet l v none))
  | (.fail c, s1) => (some c.line, (s1.setLevel l .x).record (.lineSet l v (some c.line)))

/-- `Xfer(tx)` (R8, R136): the response has the length of `tx`. -/
def xfer (tx : List Byte) (s : State) : BusReply × State :=
  match answerTo (.xfer tx) s with
  | (.ok rx, s1) =>
    (.ok (fitResponse s.trace tx.length rx), s1.record (.xfer tx (.ok (fitResponse s.trace tx.length rx))))
  | (.fail c, s1) => (.fail c.bus, s1.record (.xfer tx (.fail c.bus)))

/-! ### Ending an operation -/

/-- `raise K(info)`: the operation ends at this point, the sequencer goes to RESPOND with `Err(K, info)`; nothing is saved,
restored or undone (R236). -/
def State.raise (k : OpError) (s : State) : State := { s with phase := .respond, result := some (.err k) }

/-- `return v`: the operation ends with `Ok(v)` (R8, R27). -/
def State.returnOk (v : OpValue) (s : State) : State := { s with phase := .respond, result := some (.ok v) }

/-- Phase RESPOND: the result is handed to the host and the block is idle again; no error is latched (R27, R243). The latches and the
work registers, IDX among them, are dead from here on (R23, R26); that they keep what they hold is the model's choice (logs 20
and 25). -/
def State.respond (s : State) : State :=
  match s.result with
  | some r => { s with phase := .idle, results := s.results ++ [⟨r, s.configured, s.blocking⟩] }
  | none => { s with phase := .idle }

/-! ### The command transaction -/

/-- The phase in which a transaction begins: the configuration of the static lines while `configured` is 0 (R27, R130). -/
def windowStart (configured : Bool) : Phase := if configured then .ceLow else .cfgHold

/-- FRAME is loaded and a transaction begins (R24, R27, R132). -/
def State.openWindow (frame : List Byte) (s : State) : State :=
  { s with frame := frame, phase := windowStart s.configured }

/-- The operation begins its transaction named `stage` (log 7). -/
def State.beginTxn (stage : Stage) (frame : List Byte) (s : State) : State :=
  { s with stage := stage, frame := frame, phase := windowStart s.configured }

/-- Phase CFG_HOLD: `LineSet(HOLD, High)`, the first line of the configuration (R27, R130, R131). -/
def cfgHoldPhase (s : State) : State :=
  match lineSet .hold .high s with
  | (none, s1) => { s1 with phase := .cfgWp }
  | (some e, s1) => s1.raise (.holdLineFailure e)

/-- Phase CFG_WP: `LineSet(WP, Low)`; `configured` becomes 1 only after both writes were answered ok (R27, R130, R131). -/
def cfgWpPhase (s : State) : State :=
  match lineSet .wp .low s with
  | (none, s1) => { s1 with configured := true, phase := .ceLow }
  | (some e, s1) => s1.raise (.writeProtectLineFailure e)

/-- Phase CE_LOW: the chip is selected; on a failure no exchange and no release is attempted (R27, R132, R133). -/
def ceLowPhase (s : State) : State :=
  match lineSet .ce .low s with
  | (none, s1) => { s1 with phase := .xfer }
  | (some e, s1) => s1.raise (.enableLineFailure e)

/-- Phase XFER: the exchange of FRAME, its answer latched in XRES; the release follows whatever the answer, after the second
exchange of a split read if there is one (R27, R132, R134, R137). A failed exchange leaves RX as it was (log 20).
In a split read XRES is written here and again in XFER2, which the spec leaves open (log 24). -/
def xferPhase (s : State) : State :=
  match xfer s.frame s with
  | (.ok rx, s1) =>
    if dataExchangeFollows s then { s1 with rx := rx, xres := .ok, frame := zeros s.rlen, phase := .xfer2 }
    else { s1 with rx := rx, xres := .ok, phase := .ceHigh }
  | (.fail e, s1) => { s1 with xres := .fail e, phase := .ceHigh }

/-- Phase XFER2: the data exchange of a split read (R27, R137). Its answer overwrites the ok that XFER left in XRES (log 24), so that
the release finds the answer of the last exchange (R25, R135). -/
def xfer2Phase (s : State) : State :=
  match xfer s.frame s with
  | (.ok rx, s1) => { s1 with rx := rx, xres := .ok, phase := .ceHigh }
  | (.fail e, s1) => { s1 with xres := .fail e, phase := .ceHigh }

/-- Phase CE_HIGH: the release; its failure supersedes a failure of the exchange (R27, R132, R135). The lives of FRAME, RX and XRES end
here or with the result (R24, R25); that they keep what they hold is the model's choice (log 25). -/
def ceHighPhase (s : State) : State :=
  match lineSet .ce .high s with
  | (some e, s1) => s1.raise (.enableLineFailure e)
  | (none, s1) =>
    match s1.xres with
    | .fail e => s1.raise (.transferFailure e)
    | .ok => { s1 with phase := .next }

/-! ### Idle check and wait -/

/-- `AssertNotBusy()` after its status read: raise Busy, or go on (R211). -/
def assertNotBusy (go : State → State) (s : State) : State := if busyBit s then s.raise .busy else go s

/-- The start of `Wait(forced)`: no status read at all unless `blocking` or `forced` (R210). -/
def waitFor (forced : Bool) (done : State → State) (s : State) : State :=
  if s.blocking || forced then s.beginTxn .poll rdsrBytes else done s

/-- `Wait` after a poll: poll again while busy, with no bound (R210, R212; log 15). -/
def pollAgain (done : State → State) (s : State) : State :=
  if busyBit s then s.beginTxn .poll rdsrBytes else done s

/-! ### The sequencer -/

/-- An operation's own part: what it does in VALIDATE (operand checks, then its first transaction) and in NEXT (what follows
a transaction). The phases between are shared (R27). -/
structure Microprogram where
  validate : State → State
  next : State → State

/-- One phase transition of the sequencer, with at most one event (R27, R28). -/
def tick (m : Microprogram) (s : State) : State :=
  match s.phase with
  | .idle => s
  | .validate => m.validate s
  | .cfgHold => cfgHoldPhase s
  | .cfgWp => cfgWpPhase s
  | .ceLow => ceLowPhase s
  | .xfer => xferPhase s
  | .xfer2 => xfer2Phase s
  | .ceHigh => ceHighPhase s
  | .next => m.next s
  | .respond => s.respond

/-- Whether the block stands at an event, which the environment has to answer (R27). -/
def Phase.atEvent : Phase → Bool
  | .cfgHold => true
  | .cfgWp => true
  | .ceLow => true
  | .xfer => true
  | .xfer2 => true
  | .ceHigh => true
  | .idle => false
  | .validate => false
  | .next => false
  | .respond => false

/-- One phase transition if the phase has no event (VALIDATE, NEXT, RESPOND). -/
def quiet (m : Microprogram) (s : State) : State := if s.phase.atEvent then s else tick m s

/-- The phases without an event that stand before the next event: at most VALIDATE or NEXT, then RESPOND. -/
def settle (m : Microprogram) (s : State) : State := quiet m (quiet m s)

/-- Up to `n` events of the operation in progress, each followed by the phases without an event; nothing once it is over. -/
def advance (m : Microprogram) : Nat → State → State
  | 0, s => s
  | n + 1, s => if s.phase.atEvent then advance m n (settle m (tick m s)) else s

/-- A request is accepted in IDLE only (R250, D20): its operands are latched (`load`, R23), the operands are checked, and the
operation runs through every answer that the environment has fixed, to its result if they reach that far.
Where they do not, it stands at the first event not yet answered and `step` goes on from there (log 10).
`load` loads OP and the latches of the operands that the operation uses; that the other latches keep what they hold is the
model's choice (log 23). -/
def accept (m : Microprogram) (load : State → State) (s : State) : Host.Outcome State Fault Refusal :=
  if s.phase = .idle then
    let s1 := settle m { load s with phase := .validate }
    .next (advance m s1.answers.length s1)
  else .refused .notIdle

/-- A request whose length a parameter bounds is accepted if the bound admits it; in IDLE it is else refused (R6; log 11). -/
def acceptWithin (admitted : Bool) (m : Microprogram) (load : State → State) (s : State) : Host.Outcome State Fault Refusal :=
  if s.phase = .idle ∧ admitted = false then .refused .aboveBound else accept m load s

/-- Up to `n` events of the transaction in progress, and nothing after it. -/
def runWindow : Nat → State → State
  | 0, s => s
  | n + 1, s => if s.phase.atEvent then runWindow n (tick ⟨id, id⟩ s) else s

/-- The meaning of a wire frame: its transaction (R132). The window opens with the frame loaded, one event takes place, and
then every event that the environment has already answered, to the end of the transaction (log 10, log 21). -/
def issue (frame : List Byte) (s : State) : Host.Outcome State Fault Refusal :=
  let s1 := s.openWindow frame
  .next (runWindow (max 1 s1.answers.length) s1)

end Sys2Proof.Machine
end

