-- ==== Sys2Proof/Machine/EraseRead.lean ====
section
/-!
DEFINITION. The erase and read operations (spec file 45_erase_read_ops.md) and the write of the blocking flag (spec file
46_busy_wait.md).
-/

namespace Sys2Proof.Machine

/-- `erase_full()` (R190): WREN, idle check, CHIP_ERASE, then a forced wait, whatever `blocking` says (R191). -/
def eraseFullProgram : Microprogram where
  validate := State.beginTxn .enable wrenBytes
  next s :=
    match s.stage with
    | .enable => s.beginTxn .check rdsrBytes
    | .check => assertNotBusy (State.beginTxn .main chipEraseBytes) s
    | .main => waitFor true (State.returnOk .unit) s
    | .poll => pollAgain (State.returnOk .unit) s
    | _ => s.returnOk .unit

/-- Meaning of `erase_full` (R190). It loads OP alone (log 23). -/
def execEraseFull (s : State) : Host.Outcome State Fault Refusal :=
  accept eraseFullProgram (fun s => { s with op := .eraseFull }) s

/-- `read<L>(a)` (R193): the address check, then one READ window; no status read (R196) and no end check (R194). -/
def readProgram : Microprogram where
  validate s :=
    if addressAccepted s.addr then s.beginTxn .main (readFrame s.cfg (wireAddress s.cfg s.addr) s.rlen)
    else s.raise .invalidAddress
  next s := s.returnOk (.bytes (readData s))

/-- Meaning of `read<L>` (R193); a request with L = 0 is refused (R195, D10), and one above a configured L_MAX (log 11). It loads
OP, ADDR and RLEN alone (log 23). -/
def execRead (a : Addr) (l : Nat) (s : State) : Host.Outcome State Fault Refusal :=
  if l = 0 then .refused .readLengthZero
  else acceptWithin (s.cfg.admits (.read a l)) readProgram (fun s => { s with op := .read, addr := a, rlen := l }) s

/-- `set_blocking(b)` (R214): the flag is written, with no event and no configuration, and the result is always Ok. Its operand is held
in the model's own latch (log 26). -/
def setBlockingProgram : Microprogram where
  validate s := State.returnOk .unit { s with blocking := s.bIn }
  next := State.returnOk .unit

/-- Meaning of `set_blocking` (R214). It loads OP and the model's own latch for B alone (logs 23 and 26). -/
def execSetBlocking (b : Bool) (s : State) : Host.Outcome State Fault Refusal :=
  accept setBlockingProgram (fun s => { s with op := .setBlocking, bIn := b }) s

end Sys2Proof.Machine
end

