-- ==== Sys2Proof/Machine/Frames.lean ====
section
/-!
DEFINITION. The wire frames (spec file 30_encoding.md, R82 to R91): the meaning of a frame is the command transaction that
sends it (spec file 42_transaction.md).
-/

namespace Sys2Proof.Machine

/-- Meaning of `RDSR` (R85). -/
def execRdsr (s : State) : Host.Outcome State Fault Refusal := issue rdsrBytes s

/-- Meaning of `WREN` (R84). -/
def execWren (s : State) : Host.Outcome State Fault Refusal := issue wrenBytes s

/-- Meaning of `WRDI` (R84). -/
def execWrdi (s : State) : Host.Outcome State Fault Refusal := issue wrdiBytes s

/-- Meaning of `WRSR` (R86). -/
def execWrsr (p : Protection) (s : State) : Host.Outcome State Fault Refusal := issue (wrsrBytes (protectionByte p)) s

/-- Meaning of `BYTE_PROG` (R87). -/
def execByteProg (a : WireAddr) (d : Byte) (s : State) : Host.Outcome State Fault Refusal := issue (byteProgBytes a d) s

/-- Meaning of `AAI_FIRST` (R88). -/
def execAaiFirst (a : WireAddr) (x y : Byte) (s : State) : Host.Outcome State Fault Refusal :=
  issue (aaiFirstBytes a x y) s

/-- Meaning of `AAI_NEXT` (R89). -/
def execAaiNext (x y : Byte) (s : State) : Host.Outcome State Fault Refusal := issue (aaiNextBytes x y) s

/-- Meaning of `CHIP_ERASE` (R84). -/
def execChipErase (s : State) : Host.Outcome State Fault Refusal := issue chipEraseBytes s

/-- Meaning of `READ` (R90): the read transaction, with its L data bytes, under the configured framing (R137, R138). A window
without a data byte would be an exchange of no byte, which the block never makes (R136, R195). The frame's L is put in RLEN, where the
data exchange finds it; in a run RLEN holds it already, and for a frame executed by itself this is the model's choice (log 27). -/
def execReadMem (a : WireAddr) (l : Nat) (s : State) : Host.Outcome State Fault Refusal :=
  if l = 0 then .refused .readLengthZero else issue (readFrame s.cfg a l) { s with rlen := l }

/-- Meaning of `WS_PRELUDE` (R91). -/
def execWsPrelude (s : State) : Host.Outcome State Fault Refusal := issue (preludeBytes s.cfg.wsPrelude) s

end Sys2Proof.Machine
end

