-- ==== Sys2Proof/Machine/ProgramOps.lean ====
section
/-!
DEFINITION. The program operations (spec file 44_program_ops.md): byte_program and aai_program. Both check their operands
before any event, send WREN, check that the chip is idle, and then send their frames.
-/

namespace Sys2Proof.Machine

/-- `byte_program(a, d)` (R170): WREN, idle check, BYTE_PROG, then the wait that honours `blocking` (R213, R215). -/
def byteProgramProgram : Microprogram where
  validate s :=
    if addressAccepted s.addr then s.beginTxn .enable wrenBytes else s.raise .invalidAddress
  next s :=
    match s.stage with
    | .enable => s.beginTxn .check rdsrBytes
    | .check => assertNotBusy (fun s => s.beginTxn .main (byteProgFrame s)) s
    | .main => waitFor false (State.returnOk .unit) s
    | .poll => pollAgain (State.returnOk .unit) s
    | _ => s.returnOk .unit

/-- Meaning of `byte_program` (R170). It loads OP, ADDR and DATA alone (log 23). -/
def execByteProgram (a : Addr) (d : Byte) (s : State) : Host.Outcome State Fault Refusal :=
  accept byteProgramProgram (fun s => { s with op := .byteProgram, addr := a, data := d }) s

/-- The operand checks of `aai_program`, in their order: address, size, parity (R171). -/
def aaiChecks (s : State) : Option OpError :=
  if addressAccepted s.addr then
    if s.len < 2 then some .bufferTooSmall
    else if s.len % 2 ≠ 0 then some .bufferUneven
    else none
  else some .invalidAddress

/-- The loop head of `aai_program` after a chunk's wait: IDX counts the chunk done, and the next chunk is sent while there is
one (`IDX <= LEN/2 - 1`), else the closing WRDI (R172). After that IDX is dead and keeps the number of chunks (log 25). -/
def aaiChunkDone (s : State) : State :=
  let s1 := { s with idx := s.idx + 1 }
  if s1.idx + 1 ≤ s1.len / 2 then s1.beginTxn .chunk (aaiNextFrame s1) else s1.beginTxn .disable wrdiBytes

/-- `aai_program(a, BUF)` (R172): WREN, idle check, the first chunk with the address, the later chunks, each chunk followed by
a forced wait (R213), and the closing WRDI. IDX is 0 while the first chunk is out (log 16). -/
def aaiProgramProgram : Microprogram where
  validate s :=
    match aaiChecks s with
    | some k => s.raise k
    | none => s.beginTxn .enable wrenBytes
  next s :=
    match s.stage with
    | .enable => s.beginTxn .check rdsrBytes
    | .check => assertNotBusy (fun s => State.beginTxn .main (aaiFirstFrame s) { s with idx := 0 }) s
    | .main => waitFor true aaiChunkDone s
    | .chunk => waitFor true aaiChunkDone s
    | .poll => pollAgain aaiChunkDone s
    | _ => s.returnOk .unit

/-- Meaning of `aai_program` (R172); a buffer longer than a configured BUF_MAX is refused (D25; log 11). It loads OP, ADDR and BUF
alone (log 23). -/
def execAaiProgram (a : Addr) (buf : List Byte) (s : State) : Host.Outcome State Fault Refusal :=
  acceptWithin (s.cfg.admits (.aaiProgram a buf)) aaiProgramProgram (fun s => { s with op := .aaiProgram, addr := a, buf := buf }) s

end Sys2Proof.Machine
end

