-- ==== Sys2Proof/Machine/StatusOps.lean ====
section
/-!
DEFINITION. The status and latch operations (spec file 43_status_ops.md): read_status, write_enable, write_disable,
write_status. None checks an operand, tests busy or waits (R154, R155).
-/

namespace Sys2Proof.Machine

/-- `read_status()`: one RDSR transaction, response byte 1 decoded (R150). -/
def readStatusProgram : Microprogram where
  validate := State.beginTxn .main rdsrBytes
  next s := s.returnOk (.status (decodeStatus (statusByte s)))

/-- Meaning of `read_status` (R150). It loads OP alone (log 23). -/
def execReadStatus (s : State) : Host.Outcome State Fault Refusal :=
  accept readStatusProgram (fun s => { s with op := .readStatus }) s

/-- `write_enable()`: one WREN transaction (R151). -/
def writeEnableProgram : Microprogram where
  validate := State.beginTxn .main wrenBytes
  next := State.returnOk .unit

/-- Meaning of `write_enable` (R151). It loads OP alone (log 23). -/
def execWriteEnable (s : State) : Host.Outcome State Fault Refusal :=
  accept writeEnableProgram (fun s => { s with op := .writeEnable }) s

/-- `write_disable()`: one WRDI transaction (R152). -/
def writeDisableProgram : Microprogram where
  validate := State.beginTxn .main wrdiBytes
  next := State.returnOk .unit

/-- Meaning of `write_disable` (R152). It loads OP alone (log 23). -/
def execWriteDisable (s : State) : Host.Outcome State Fault Refusal :=
  accept writeDisableProgram (fun s => { s with op := .writeDisable }) s

/-- `write_status(st)`: WREN, the prelude byte, WRSR with the encoded operand (R153); no idle check, no wait (R154). -/
def writeStatusProgram : Microprogram where
  validate := State.beginTxn .enable wrenBytes
  next s :=
    match s.stage with
    | .enable => s.beginTxn .middle (preludeBytes s.cfg.wsPrelude)
    | .middle => s.beginTxn .main (wrsrBytes (encodeStatus s.statIn))
    | _ => s.returnOk .unit

/-- Meaning of `write_status` (R153). It loads OP and STAT_IN alone (log 23). -/
def execWriteStatus (st : Status) (s : State) : Host.Outcome State Fault Refusal :=
  accept writeStatusProgram (fun s => { s with op := .writeStatus, statIn := st }) s

end Sys2Proof.Machine
end

