-- ==== Sys2Proof/Machine/Dispatch.lean ====
section
/-!
DEFINITION. One arm per instruction: its meaning.
-/

namespace Sys2Proof.Machine

def exec (i : Instr) (s : State) : Host.Outcome State Fault Refusal :=
  match i with
  -- the nine host operations (R80)
  | .readStatus => Sys2Proof.Machine.execReadStatus s
  | .writeEnable => Sys2Proof.Machine.execWriteEnable s
  | .writeDisable => Sys2Proof.Machine.execWriteDisable s
  | .writeStatus st => Sys2Proof.Machine.execWriteStatus st s
  | .eraseFull => Sys2Proof.Machine.execEraseFull s
  | .byteProgram a d => Sys2Proof.Machine.execByteProgram a d s
  | .aaiProgram a buf => Sys2Proof.Machine.execAaiProgram a buf s
  | .read a l => Sys2Proof.Machine.execRead a l s
  | .setBlocking b => Sys2Proof.Machine.execSetBlocking b s
  -- the ten wire frames (R82)
  | .rdsr => Sys2Proof.Machine.execRdsr s
  | .wren => Sys2Proof.Machine.execWren s
  | .wrdi => Sys2Proof.Machine.execWrdi s
  | .wrsr p => Sys2Proof.Machine.execWrsr p s
  | .byteProg a d => Sys2Proof.Machine.execByteProg a d s
  | .aaiFirst a x y => Sys2Proof.Machine.execAaiFirst a x y s
  | .aaiNext x y => Sys2Proof.Machine.execAaiNext x y s
  | .chipErase => Sys2Proof.Machine.execChipErase s
  | .readMem a l => Sys2Proof.Machine.execReadMem a l s
  | .wsPrelude => Sys2Proof.Machine.execWsPrelude s

end Sys2Proof.Machine
end

