-- ==== Sys2Proof/Machine/Fetch.lean ====
section
/-!
DEFINITION. What a step runs next: the request at the host port, the frame of a transaction about to begin, and the own part of
the operation in progress; and how a table word is placed where the step fetches it.
-/

namespace Sys2Proof.Machine

/-- The own part of the operation that OP names (R23, R27). -/
def microprogram : HostOp → Microprogram
  | .readStatus => readStatusProgram
  | .writeEnable => writeEnableProgram
  | .writeDisable => writeDisableProgram
  | .writeStatus => writeStatusProgram
  | .eraseFull => eraseFullProgram
  | .byteProgram => byteProgramProgram
  | .aaiProgram => aaiProgramProgram
  | .read => readProgram
  | .setBlocking => setBlockingProgram

/-- The frame of the transaction about to begin, read from the bytes its window will send (R98; log 10). -/
def windowInstr (s : State) : Except DecodeError Instr := decodeFrame s.cfg.wsPrelude (windowBytes s)

/-- The refusal of a request that encodes no operation (R81, R195). -/
def requestRefusal : DecodeError → Refusal
  | .reservedOp code => .reservedOp code
  | .readLengthZero => .readLengthZero
  | .emptyFrame => .notAFrame
  | .badOpcode _ => .notAFrame
  | .badLength _ _ => .notAFrame
  | .badDummy _ => .notAFrame
  | .badStatusBits _ => .notAFrame

/-- The state in which the transaction of the given window bytes is about to begin: FRAME (and RLEN for a READ) loaded
(logs 12 and 27). -/
def placeWindow (bytes : List Byte) (s : State) : State :=
  if isReadCommand (bytes.take 4) then
    match s.cfg.readFraming with
    | .split => State.openWindow (bytes.take 4) { s with rlen := bytes.length - 4 }
    | .joined => State.openWindow bytes { s with rlen := bytes.length - 4 }
  else s.openWindow bytes

/-- The state whose next step fetches the encoded instruction: a request stands first at the port of an idle block, a frame in
FRAME at the start of a transaction (log 12). -/
def placeEncoded (e : Encoded) (s : State) : State :=
  match e with
  | .request r => { s with phase := .idle, program := r :: s.program }
  | .frame bytes => placeWindow bytes s

end Sys2Proof.Machine
end

