-- ==== Sys2Proof/Machine/Step.lean ====
section
/-!
DEFINITION. One step of the block.
-/

namespace Sys2Proof.Machine

/-- One step. In IDLE the next request is fetched, decoded and executed; with no request the block waits in IDLE (R250, R261).
At the start of a transaction the frame about to be sent is decoded and executed (R82, R132). In every other phase the
operation in progress makes one phase transition (R27, R28). -/
def step (s : State) : Host.Outcome State Fault Refusal :=
  match s.phase with
  | .idle =>
    match s.program with
    | [] => .next s
    | r :: rest =>
      match decodeRequest r with
      | .ok i => exec i { s with program := rest }
      | .error e => .refused (requestRefusal e)
  | .cfgHold =>
    match windowInstr s with
    | .ok i => exec i s
    | .error _ => .refused .notAFrame
  | .ceLow =>
    match windowInstr s with
    | .ok i => exec i s
    | .error _ => .refused .notAFrame
  | .validate => .next (tick (microprogram s.op) s)
  | .cfgWp => .next (tick (microprogram s.op) s)
  | .xfer => .next (tick (microprogram s.op) s)
  | .xfer2 => .next (tick (microprogram s.op) s)
  | .ceHigh => .next (tick (microprogram s.op) s)
  | .next => .next (tick (microprogram s.op) s)
  | .respond => .next (tick (microprogram s.op) s)

/-- The state with a word of spec/opcode_table.json placed where `step` fetches its next instruction. -/
def State.withFetchWord (s : State) (nbits w : Nat) : State := placeEncoded (tableEncoded nbits w) s

end Sys2Proof.Machine
end

