-- ==== Sys2Proof/Machine/Pseudocode.lean ====
section
/-!
DEFINITION. The operations a second time, written line by line from the pseudocode of spec files 42 to 46, as one function per
operation over the environment's answers: the big-step form that R27 allows and with which the phase machine must agree.
No instruction's meaning uses this file; a statement of Obligations.lean compares the two.
-/

namespace Sys2Proof.Machine.Pseudo

/-- What the pseudocode reads and writes outside its own variables: the two persistent bits, the line levels, the trace, and
the environment's answers still to come. -/
structure World where
  configured : Bool
  blocking : Bool
  ce : Level
  wp : Level
  hold : Level
  trace : List Entry
  answers : List Answer
  cfg : Config
  deriving DecidableEq, Repr

/-- The part of a state that the pseudocode speaks of. -/
def worldOf (s : State) : World where
  configured := s.configured
  blocking := s.blocking
  ce := s.ce
  wp := s.wp
  hold := s.hold
  trace := s.trace
  answers := s.answers
  cfg := s.cfg

/-- A run of a piece of pseudocode: it returns, it raises, or it stands at an event that no fixed answer reaches. -/
inductive Run (α : Type) where
  | done (a : α) (w : World)
  | raised (k : OpError) (w : World)
  | waiting (w : World)
  deriving DecidableEq, Repr

/-- Sequencing: "a procedure call propagates a raise of the callee to the caller unchanged" (R8). -/
def Run.andThen {α β : Type} (r : Run α) (f : α → World → Run β) : Run β :=
  match r with
  | .done a w => f a w
  | .raised k w => .raised k w
  | .waiting w => .waiting w

/-- `LineSet(l, v)` (R8, R29). -/
def line (l : Line) (v : Drive) (w : World) : Run (Option LineError) :=
  let put (lv : Level) (r : Option LineError) (rest : List Answer) : World :=
    { w with
      ce := if l = .ce then lv else w.ce
      wp := if l = .wp then lv else w.wp
      hold := if l = .hold then lv else w.hold
      trace := w.trace ++ [.lineSet l v r]
      answers := rest }
  match w.answers with
  | [] => .waiting w
  | .ok _ :: rest => .done none (put (Drive.level v) none rest)
  | .fail c :: rest => .done (some c.line) (put .x (some c.line) rest)

/-- `Xfer(tx)` (R8, R136). -/
def exchange (tx : List Byte) (w : World) : Run BusReply :=
  let put (r : BusReply) (rest : List Answer) : Run BusReply :=
    .done r { w with trace := w.trace ++ [.xfer tx r], answers := rest }
  match w.answers with
  | [] => .waiting w
  | .ok rx :: rest => put (.ok (fitResponse w.trace tx.length rx)) rest
  | .fail c :: rest => put (.fail c.bus) rest

/-- `if r = fail(e): raise K(e)` after a line command. -/
def orRaise (r : Run (Option LineError)) (k : LineError → OpError) : Run Unit :=
  r.andThen fun r w =>
    match r with
    | some e => .raised (k e) w
    | none => .done () w

/-- `Configure()` (R130). -/
def configure (w : World) : Run Unit :=
  if w.configured then .done () w
  else
    (orRaise (line .hold .high w) .holdLineFailure).andThen fun _ w =>
    (orRaise (line .wp .low w) .writeProtectLineFailure).andThen fun _ w =>
    .done () { w with configured := true }

/-- Steps 4 and 5 of a transaction: the release, its failure first, then the exchange's (R132, R135). -/
def release (xres : BusReply) (w : World) : Run (List Byte) :=
  (orRaise (line .ce .high w) .enableLineFailure).andThen fun _ w =>
  match xres with
  | .fail e => .raised (.transferFailure e) w
  | .ok rx => .done rx w

/-- `Txn(tx)` (R132). -/
def txn (tx : List Byte) (w : World) : Run (List Byte) :=
  (configure w).andThen fun _ w =>
  (orRaise (line .ce .low w) .enableLineFailure).andThen fun _ w =>
  (exchange tx w).andThen fun xres w =>
  release xres w

/-- `ReadTxn(a, L)` (R137 when the framing is split, R138 when it is joined). -/
def readTxn (a : WireAddr) (l : Nat) (w : World) : Run (List Byte) :=
  match w.cfg.readFraming with
  | .joined => (txn (readCommand a ++ zeros l) w).andThen fun rx w => .done (rx.drop 4) w
  | .split =>
    (configure w).andThen fun _ w =>
    (orRaise (line .ce .low w) .enableLineFailure).andThen fun _ w =>
    (exchange (readCommand a) w).andThen fun x1 w =>
    match x1 with
    | .fail e => release (.fail e) w
    | .ok _ => (exchange (zeros l) w).andThen fun x2 w => release x2 w

/-- `read_status()` (R150). -/
def readStatus (w : World) : Run Status :=
  (txn rdsrBytes w).andThen fun rx w => .done (decodeStatus (rx.getD 1 0)) w

/-- `write_enable()` (R151). -/
def writeEnable (w : World) : Run Unit := (txn wrenBytes w).andThen fun _ w => .done () w

/-- `write_disable()` (R152). -/
def writeDisable (w : World) : Run Unit := (txn wrdiBytes w).andThen fun _ w => .done () w

/-- `write_status(st)` (R153). -/
def writeStatus (st : Status) (w : World) : Run Unit :=
  (writeEnable w).andThen fun _ w =>
  (txn (preludeBytes w.cfg.wsPrelude) w).andThen fun _ w =>
  (txn (wrsrBytes (encodeStatus st)) w).andThen fun _ w =>
  .done () w

/-- `AssertNotBusy()` (R211). -/
def assertIdle (w : World) : Run Unit :=
  (readStatus w).andThen fun st w => if st.busy then .raised .busy w else .done () w

/-- The loop of `Wait`; `fuel` bounds the recursion only: each poll uses an answer, so with more fuel than answers the run ends
or stands waiting before the fuel does. -/
def pollLoop : Nat → World → Run Unit
  | 0, w => .waiting w
  | fuel + 1, w => (readStatus w).andThen fun st w => if st.busy then pollLoop fuel w else .done () w

/-- `Wait(forced)` (R210). -/
def wait (forced : Bool) (w : World) : Run Unit :=
  if w.blocking || forced then pollLoop (w.answers.length + 1) w else .done () w

/-- `erase_full()` (R190). -/
def eraseFull (w : World) : Run Unit :=
  (writeEnable w).andThen fun _ w =>
  (assertIdle w).andThen fun _ w =>
  (txn chipEraseBytes w).andThen fun _ w =>
  wait true w

/-- `validate(a)` (R120). -/
def validate (a : Addr) (w : World) : Run Unit :=
  if a > Config.maxAddress then .raised .invalidAddress w else .done () w

/-- `byte_program(a, d)` (R170). -/
def byteProgram (a : Addr) (d : Byte) (w : World) : Run Unit :=
  (validate a w).andThen fun _ w =>
  (writeEnable w).andThen fun _ w =>
  (assertIdle w).andThen fun _ w =>
  (txn (byteProgBytes (wireAddress w.cfg a) d) w).andThen fun _ w =>
  wait false w

/-- The chunk loop of `aai_program`: `n` chunks are left and IDX is `i` (R172). -/
def chunkLoop (buf : List Byte) : Nat → Nat → World → Run Unit
  | 0, _, w => .done () w
  | n + 1, i, w =>
    (txn (aaiNextBytes (buf.getD (2 * i) 0) (buf.getD (2 * i + 1) 0)) w).andThen fun _ w =>
    (wait true w).andThen fun _ w =>
    chunkLoop buf n (i + 1) w

/-- `aai_program(a, BUF)` (R171, R172). -/
def aaiProgram (a : Addr) (buf : List Byte) (w : World) : Run Unit :=
  (validate a w).andThen fun _ w =>
  if buf.length < 2 then .raised .bufferTooSmall w
  else if buf.length % 2 ≠ 0 then .raised .bufferUneven w
  else
    (writeEnable w).andThen fun _ w =>
    (assertIdle w).andThen fun _ w =>
    (txn (aaiFirstBytes (wireAddress w.cfg a) (buf.getD 0 0) (buf.getD 1 0)) w).andThen fun _ w =>
    (wait true w).andThen fun _ w =>
    (chunkLoop buf (buf.length / 2 - 1) 1 w).andThen fun _ w =>
    writeDisable w

/-- `read<L>(a)` (R193). -/
def read (a : Addr) (l : Nat) (w : World) : Run (List Byte) :=
  (validate a w).andThen fun _ w => readTxn (wireAddress w.cfg a) l w

/-- A run that returns unit, as the run of an operation. -/
def unitResult (r : Run Unit) : Run OpValue := r.andThen fun _ w => .done .unit w

/-- The pseudocode of each host operation; `none` for a wire frame, which is no operation. -/
def operation (i : Instr) (w : World) : Option (Run OpValue) :=
  match i with
  | .readStatus => some ((readStatus w).andThen fun st w => .done (.status st) w)
  | .writeEnable => some (unitResult (writeEnable w))
  | .writeDisable => some (unitResult (writeDisable w))
  | .writeStatus st => some (unitResult (writeStatus st w))
  | .eraseFull => some (unitResult (eraseFull w))
  | .byteProgram a d => some (unitResult (byteProgram a d w))
  | .aaiProgram a buf => some (unitResult (aaiProgram a buf w))
  | .read a l => some ((read a l w).andThen fun bs w => .done (.bytes bs) w)
  | .setBlocking b => some (.done .unit { w with blocking := b })
  | .rdsr => none
  | .wren => none
  | .wrdi => none
  | .wrsr _ => none
  | .byteProg _ _ => none
  | .aaiFirst _ _ _ => none
  | .aaiNext _ _ => none
  | .chipErase => none
  | .readMem _ _ => none
  | .wsPrelude => none

end Sys2Proof.Machine.Pseudo
end

