-- ==== Sys2Proof/Safety.lean ====
section
/-!
DEFINITION. The terms of the statements: the answers and trace entries of successful transactions, what a finished operation
leaves, the grammar of the event trace, the error matrix, and the invariant of the machine.
-/

namespace Sys2Proof.Machine

/-! ### Successful transactions -/

/-- The answers of one successful transaction with one exchange, answered `rx` (R132). -/
def txnAnswers (rx : List Byte) : List Answer := [.ok [], .ok rx, .ok []]

/-- The trace of one successful transaction: CE Low, the exchange, CE High (R132). -/
def txnEntries (tx rx : List Byte) : List Entry :=
  [.lineSet .ce .low none, .xfer tx (.ok rx), .lineSet .ce .high none]

/-- The two answers of a successful configuration, if one is due (R130). -/
def configAnswers (s : State) : List Answer := if s.configured then [] else [.ok [], .ok []]

/-- The trace of a successful configuration, if one is due: HOLD High, then WP Low (R130). -/
def configEntries (s : State) : List Entry :=
  if s.configured then [] else [.lineSet .hold .high none, .lineSet .wp .low none]

/-- The answers to a run of status polls with the given responses. -/
def pollAnswers (responses : List (List Byte)) : List Answer := responses.flatMap txnAnswers

/-- The trace of a run of status polls with the given responses. -/
def pollEntries (responses : List (List Byte)) : List Entry := responses.flatMap (txnEntries rdsrBytes)

/-- An RDSR response (two bytes) whose status byte has `busy` = b (R85, R110). -/
def statusResponse (b : Bool) (rx : List Byte) : Prop := rx.length = 2 ∧ (rx.getD 1 0).getLsbD 0 = b

/-- The answers of one forced wait: polls answered busy, then one answered idle (R210). -/
def waitAnswers (busy : List (List Byte)) (last : List Byte) : List Answer := pollAnswers busy ++ txnAnswers last

/-- The trace of one wait that ends (R210). -/
def waitEntries (busy : List (List Byte)) (last : List Byte) : List Entry :=
  pollEntries busy ++ txnEntries rdsrBytes last

/-- The responses of a wait that ends: every one but the last shows busy, the last does not (R210). -/
def waitResponses (busy : List (List Byte)) (last : List Byte) : Prop :=
  (∀ rx ∈ busy, statusResponse true rx) ∧ statusResponse false last

/-- What the environment answers to one chunk of `aai_program` and its forced wait. -/
structure ChunkRun where
  /-- The response to the chunk's frame. -/
  rx : List Byte
  /-- The responses of the polls that show busy. -/
  busy : List (List Byte)
  /-- The response of the poll that ends the wait. -/
  last : List Byte
  deriving DecidableEq, Repr

/-- The answers to a chunk and its wait. -/
def ChunkRun.answers (c : ChunkRun) : List Answer := txnAnswers c.rx ++ waitAnswers c.busy c.last

/-- The trace of a chunk with the given frame, and its wait. -/
def ChunkRun.entries (frame : List Byte) (c : ChunkRun) : List Entry :=
  txnEntries frame c.rx ++ waitEntries c.busy c.last

/-- Whether the answers fit a chunk with the given frame: as many bytes as sent, and a wait that ends. -/
def ChunkRun.fits (frame : List Byte) (c : ChunkRun) : Prop :=
  c.rx.length = frame.length ∧ waitResponses c.busy c.last

/-- The frame of chunk `i` of `aai_program(a, buf)`: the first with the address, the later ones without (R172, R173). -/
def aaiChunkFrame (cfg : Config) (a : Addr) (buf : List Byte) (i : Nat) : List Byte :=
  if i = 0 then aaiFirstBytes (wireAddress cfg a) (buf.getD 0 0) (buf.getD 1 0)
  else aaiNextBytes (buf.getD (2 * i) 0) (buf.getD (2 * i + 1) 0)

/-- The trace of the first `runs.length` chunks of `aai_program(a, buf)`, each with its wait (R172). -/
def aaiChunkEntries (cfg : Config) (a : Addr) (buf : List Byte) (runs : List ChunkRun) : List Entry :=
  (runs.mapIdx fun i c => ChunkRun.entries (aaiChunkFrame cfg a buf i) c).flatten

/-- Whether the answers fit the first `runs.length` chunks. -/
def aaiRunsFit (cfg : Config) (a : Addr) (buf : List Byte) (runs : List ChunkRun) : Prop :=
  ∀ i c, runs[i]? = some c → ChunkRun.fits (aaiChunkFrame cfg a buf i) c

/-- What an operation leaves when it ran from `s` to its result `r` in `t`, with the trace `entries` of its events, at least
one of them a command of CE, whose last one left CE at the level `ce`: the block is idle, the result is the last reported, the
static lines are configured (R12, R61, R141); `blocking`, the configuration, and the host's further requests are as before. -/
def Ended (s t : State) (entries : List Entry) (r : OpResult) (ce : Level) (rest : List Answer) : Prop :=
  t.phase = .idle ∧ t.trace = s.trace ++ entries ∧ t.results = s.results ++ [⟨r, true, s.blocking⟩] ∧
  t.result = some r ∧ t.answers = rest ∧ t.configured = true ∧ t.blocking = s.blocking ∧ t.ce = ce ∧
  t.hold = (if s.configured then s.hold else .high) ∧ t.wp = (if s.configured then s.wp else .low) ∧
  t.cfg = s.cfg ∧ t.program = s.program

/-- The same where the last transaction released the chip. -/
def Finished (s t : State) (entries : List Entry) (r : OpResult) (rest : List Answer) : Prop :=
  Ended s t entries r .high rest

/-- The four ways in which a transaction with one exchange fails once the lines are configured (R133, R135). -/
inductive TxnFailure where
  /-- CE Low fails: no exchange and no release. -/
  | assertion (el : Failure)
  /-- The exchange fails, the release succeeds. -/
  | exchange (eb : Failure)
  /-- The exchange fails and then the release. -/
  | exchangeAndRelease (eb el : Failure)
  /-- The exchange is answered `rx`, and the release fails. -/
  | release (rx : List Byte) (el : Failure)
  deriving DecidableEq, Repr

/-- The answers of a failed transaction. -/
def TxnFailure.answers : TxnFailure → List Answer
  | .assertion el => [.fail el]
  | .exchange eb => [.ok [], .fail eb, .ok []]
  | .exchangeAndRelease eb el => [.ok [], .fail eb, .fail el]
  | .release rx el => [.ok [], .ok rx, .fail el]

/-- The trace of a failed transaction with the given frame. -/
def TxnFailure.entries (tx : List Byte) : TxnFailure → List Entry
  | .assertion el => [.lineSet .ce .low (some el.line)]
  | .exchange eb => [.lineSet .ce .low none, .xfer tx (.fail eb.bus), .lineSet .ce .high none]
  | .exchangeAndRelease eb el => [.lineSet .ce .low none, .xfer tx (.fail eb.bus), .lineSet .ce .high (some el.line)]
  | .release rx el => [.lineSet .ce .low none, .xfer tx (.ok rx), .lineSet .ce .high (some el.line)]

/-- The error a failed transaction raises: the failed line's before the exchange's (R133, R135). -/
def TxnFailure.error : TxnFailure → OpError
  | .assertion el => .enableLineFailure el.line
  | .exchange eb => .transferFailure eb.bus
  | .exchangeAndRelease _ el => .enableLineFailure el.line
  | .release _ el => .enableLineFailure el.line

/-- The level a failed transaction leaves CE at (R29). -/
def TxnFailure.ce : TxnFailure → Level
  | .assertion _ => .x
  | .exchange _ => .high
  | .exchangeAndRelease _ _ => .x
  | .release _ _ => .x

/-- Whether a failed transaction's response, if there is one, has as many bytes as the frame (R136). -/
def TxnFailure.fits (tx : List Byte) : TxnFailure → Bool
  | .assertion _ => true
  | .exchange _ => true
  | .exchangeAndRelease _ _ => true
  | .release rx _ => decide (rx.length = tx.length)

/-- What an operation leaves that ended with an error before any event (R120, R171): nothing at the ports and in the control registers
but the reported result. The work registers are the statement OperationWithoutTransactionKeepsWorkRegisters'. -/
def RejectedUntouched (s t : State) (k : OpError) : Prop :=
  t.phase = .idle ∧ t.trace = s.trace ∧ t.results = s.results ++ [⟨.err k, s.configured, s.blocking⟩] ∧
  t.result = some (.err k) ∧ t.answers = s.answers ∧ t.configured = s.configured ∧ t.blocking = s.blocking ∧
  t.ce = s.ce ∧ t.hold = s.hold ∧ t.wp = s.wp ∧ t.cfg = s.cfg ∧ t.program = s.program

/-- What a wire frame's transaction leaves that failed after the selection, with the given exchanges and the given answer to the
release (R134, R135): RESPOND with the error, CE as the release left it, and the lines configured, in this transaction if they
were not before. -/
def WindowFailed (s t : State) (exchanges : List Entry) (release : Option LineError) (k : OpError) (rest : List Answer) : Prop :=
  t.phase = .respond ∧ t.result = some (.err k) ∧ t.ce = (if release = none then .high else .x) ∧ t.answers = rest ∧
  t.trace = s.trace ++ (configEntries s ++ (.lineSet .ce .low none :: exchanges ++ [.lineSet .ce .high release])) ∧
  t.configured = true ∧ t.hold = (if s.configured then s.hold else .high) ∧ t.wp = (if s.configured then s.wp else .low)

/-- Whether an instruction is a host operation with a transaction, whose operand checks pass (R120, R171, R195, R214). -/
def Instr.reachesTransaction : Instr → Bool
  | .readStatus => true
  | .writeEnable => true
  | .writeDisable => true
  | .writeStatus _ => true
  | .eraseFull => true
  | .byteProgram a _ => decide (a.toNat ≤ 16777216)
  | .aaiProgram a buf => decide (a.toNat ≤ 16777216) && decide (2 ≤ buf.length) && decide (buf.length % 2 = 0)
  | .read a l => decide (a.toNat ≤ 16777216) && decide (1 ≤ l)
  | .setBlocking _ => false
  | .rdsr => false
  | .wren => false
  | .wrdi => false
  | .wrsr _ => false
  | .byteProg _ _ => false
  | .aaiFirst _ _ _ => false
  | .aaiNext _ _ => false
  | .chipErase => false
  | .readMem _ _ => false
  | .wsPrelude => false

/-- Whether an instruction is a wire frame with one exchange: every frame but READ (R132, R137). -/
def Instr.isPlainFrame : Instr → Bool
  | .rdsr => true
  | .wren => true
  | .wrdi => true
  | .wrsr _ => true
  | .byteProg _ _ => true
  | .aaiFirst _ _ _ => true
  | .aaiNext _ _ => true
  | .chipErase => true
  | .wsPrelude => true
  | .readMem _ _ => false
  | .readStatus => false
  | .writeEnable => false
  | .writeDisable => false
  | .writeStatus _ => false
  | .eraseFull => false
  | .byteProgram _ _ => false
  | .aaiProgram _ _ => false
  | .read _ _ => false
  | .setBlocking _ => false

/-! ### The error matrix (R231) -/

/-- Whether an operation can end with an error kind (R231). -/
def mayRaise : HostOp → OpError → Bool
  | .setBlocking, _ => false
  | _, .transferFailure _ => true
  | _, .enableLineFailure _ => true
  | _, .holdLineFailure _ => true
  | _, .writeProtectLineFailure _ => true
  | op, .busy => op == .eraseFull || op == .byteProgram || op == .aaiProgram
  | op, .invalidAddress => op == .byteProgram || op == .aaiProgram || op == .read
  | op, .bufferTooSmall => op == .aaiProgram
  | op, .bufferUneven => op == .aaiProgram

/-! ### The grammar of the event trace -/

/-- Where a trace stands with respect to the chip-enable window (R134, R140). -/
inductive WindowState where
  /-- No window is open: the chip was never selected, the selection failed, or its release was commanded. -/
  | closed
  /-- The chip is selected and no exchange has been made. -/
  | selected
  /-- An exchange was made; `again` says whether a second one may follow, which it may after a first that succeeded (R137). -/
  | exchanged (again : Bool)
  deriving DecidableEq, Repr

/-- One event of a well-formed trace: the static lines only outside a window and only HOLD High and WP Low; an exchange only
inside a window; after an exchange the release, whatever the exchange was answered (R130, R134, R139, R140). -/
def windowStep : WindowState → Entry → Option WindowState
  | .closed, .lineSet .hold .high _ => some .closed
  | .closed, .lineSet .wp .low _ => some .closed
  | .closed, .lineSet .ce .low none => some .selected
  | .closed, .lineSet .ce .low (some _) => some .closed
  | .selected, .xfer _ (.ok _) => some (.exchanged true)
  | .selected, .xfer _ (.fail _) => some (.exchanged false)
  | .exchanged true, .xfer _ _ => some (.exchanged false)
  | .exchanged _, .lineSet .ce .high _ => some .closed
  | _, _ => none

/-- Where a whole trace stands; `none` if it breaks the grammar. -/
def windowAfter (trace : List Entry) : Option WindowState :=
  trace.foldl (fun o e => o.bind (fun w => windowStep w e)) (some .closed)

/-- Where the trace must stand in each phase (R27). -/
def windowMatches : Phase → WindowState → Bool
  | .xfer, w => decide (w = .selected)
  | .xfer2, w => decide (w = .exchanged true)
  | .ceHigh, w => decide (w = .exchanged true) || decide (w = .exchanged false)
  | .idle, w => decide (w = .closed)
  | .validate, w => decide (w = .closed)
  | .cfgHold, w => decide (w = .closed)
  | .cfgWp, w => decide (w = .closed)
  | .ceLow, w => decide (w = .closed)
  | .next, w => decide (w = .closed)
  | .respond, w => decide (w = .closed)

/-- Whether bytes may be sent in one exchange (R97, R82): a frame, or one of the two parts of a split READ (R137). -/
def legalExchange (cfg : Config) (tx : List Byte) : Bool :=
  (decodeFrame cfg.wsPrelude tx).toBool ||
    (decide (cfg.readFraming = .split) &&
      (isReadCommand tx || (decide (1 ≤ tx.length) && decide (tx = zeros tx.length))))

/-- Whether a trace entry is an event of the block: a legal exchange, answered with as many bytes as sent (R136), or a line
command. -/
def legalEntry (cfg : Config) : Entry → Bool
  | .lineSet _ _ _ => true
  | .xfer tx (.ok rx) => legalExchange cfg tx && decide (rx.length = tx.length)
  | .xfer tx (.fail _) => legalExchange cfg tx

/-- Whether a trace entry is a failed line command. -/
def failedLine : Entry → Bool
  | .lineSet _ _ (some _) => true
  | .lineSet _ _ none => false
  | .xfer _ _ => false

/-! ### The invariant -/

/-- The phases in which the static lines are known to be configured, and those before (R27, R130). -/
def phaseConfigured : Phase → Option Bool
  | .cfgHold => some false
  | .cfgWp => some false
  | .ceLow => some true
  | .xfer => some true
  | .xfer2 => some true
  | .ceHigh => some true
  | .next => some true
  | .idle => none
  | .validate => none
  | .respond => none

/-- PHASE and `configured` agree (R27). -/
def PhaseOk (s : State) : Prop := ∀ b, phaseConfigured s.phase = some b → s.configured = b

/-- The trace of a successful configuration (R130). -/
def successfulConfig : List Entry := [.lineSet .hold .high none, .lineSet .wp .low none]

/-- `configured` is 1 exactly when both configuration writes have been answered ok, one after the other (R20, R34, R131). -/
def ConfigOk (s : State) : Prop :=
  (s.configured = true ↔ successfulConfig <:+: s.trace) ∧
  (s.phase = .cfgWp → [Entry.lineSet .hold .high none] <:+ s.trace)

/-- The line levels: once configured, HOLD is High and WP is Low; between the two configuration writes HOLD is High; from the
selection to the release CE is Low (R130, R132, R139). -/
def LinesOk (s : State) : Prop :=
  (s.configured = true → s.hold = .high ∧ s.wp = .low) ∧ (s.phase = .cfgWp → s.hold = .high) ∧
  ((s.phase = .xfer ∨ s.phase = .xfer2 ∨ s.phase = .ceHigh) → s.ce = .low)

/-- The levels while no line command has ever failed (R141). -/
def CleanLinesOk (s : State) : Prop :=
  (∀ e ∈ s.trace, failedLine e = false) →
    (s.configured = false → s.ce = .x ∧ s.wp = .x ∧ s.hold = (if s.phase = .cfgWp then .high else .x)) ∧
    (s.configured = true → s.phase = .ceLow → s.ce = .x ∨ s.ce = .high) ∧
    (s.configured = true → (s.phase = .idle ∨ s.phase = .validate ∨ s.phase = .next ∨ s.phase = .respond) → s.ce = .high)

/-- What FRAME and RX hold: before and at the exchange, a frame; at the data exchange of a split read, L >= 1 dummy bytes; after
a successful exchange, a response as long as FRAME (R24, R97, R136, R195). -/
def FrameOk (s : State) : Prop :=
  ((s.phase = .cfgHold ∨ s.phase = .cfgWp ∨ s.phase = .ceLow ∨ s.phase = .xfer) → (windowInstr s).toBool = true) ∧
  (s.phase = .xfer2 → s.cfg.readFraming = .split ∧ s.frame = zeros s.rlen ∧ 1 ≤ s.rlen) ∧
  ((s.phase = .next ∨ (s.phase = .ceHigh ∧ s.xres = .ok)) → s.rx.length = s.frame.length) ∧
  (s.phase = .validate → s.op = .read → 1 ≤ s.rlen)

/-- The result register and OP: a result is there to present, of a kind the operation can end with (R231); `set_blocking` has
no transaction (R214). -/
def ResultOk (s : State) : Prop :=
  (s.phase = .respond → ∃ r, s.result = some r ∧ ∀ k, r = .err k → mayRaise s.op k = true) ∧
  (s.op = .setBlocking → s.phase = .idle ∨ s.phase = .validate ∨ s.phase = .respond)

/-- The trace is well formed and stands where the phase says (R134, R139, R140), and every exchange in it is legal (R97). -/
def TraceOk (s : State) : Prop :=
  (∃ w, windowAfter s.trace = some w ∧ windowMatches s.phase w = true) ∧ ∀ e ∈ s.trace, legalEntry s.cfg e = true

/-- The invariant of the block. -/
structure Inv (s : State) : Prop where
  phaseOk : PhaseOk s
  configOk : ConfigOk s
  linesOk : LinesOk s
  cleanLinesOk : CleanLinesOk s
  frameOk : FrameOk s
  resultOk : ResultOk s
  traceOk : TraceOk s

/-- Whether two states agree in everything but the operand latches and the work registers. -/
def SameButRegisters (s u : State) : Prop :=
  s.configured = u.configured ∧ s.blocking = u.blocking ∧ s.phase = u.phase ∧ s.ce = u.ce ∧ s.wp = u.wp ∧ s.hold = u.hold ∧
  s.results = u.results ∧ s.trace = u.trace ∧ s.program = u.program ∧ s.answers = u.answers ∧ s.cfg = u.cfg

/-- `n` steps, stopping at the first fault or refusal. -/
def steps : Nat → State → Host.Outcome State Fault Refusal
  | 0, s => .next s
  | n + 1, s =>
    match step s with
    | .next t => steps n t
    | .fault r => .fault r
    | .refused r => .refused r

/-! ### Renaming of error payloads (R142, D27) -/

/-- An answer with its error values renamed. -/
def renameAnswer (f : BusError → BusError) (g : LineError → LineError) : Answer → Answer
  | .ok rx => .ok rx
  | .fail e => .fail ⟨f e.bus, g e.line⟩

/-- A trace entry with its error value renamed. -/
def renameEntry (f : BusError → BusError) (g : LineError → LineError) : Entry → Entry
  | .lineSet l v r => .lineSet l v (r.map g)
  | .xfer tx (.ok rx) => .xfer tx (.ok rx)
  | .xfer tx (.fail e) => .xfer tx (.fail (f e))

/-- A result with the error value of its payload renamed. -/
def renameResult (f : BusError → BusError) (g : LineError → LineError) : OpResult → OpResult
  | .ok v => .ok v
  | .err (.transferFailure e) => .err (.transferFailure (f e))
  | .err (.enableLineFailure e) => .err (.enableLineFailure (g e))
  | .err (.holdLineFailure e) => .err (.holdLineFailure (g e))
  | .err (.writeProtectLineFailure e) => .err (.writeProtectLineFailure (g e))
  | .err .busy => .err .busy
  | .err .invalidAddress => .err .invalidAddress
  | .err .bufferTooSmall => .err .bufferTooSmall
  | .err .bufferUneven => .err .bufferUneven

/-- A held answer of an exchange with its error value renamed. -/
def renameXRes (f : BusError → BusError) : XRes → XRes
  | .ok => .ok
  | .fail e => .fail (f e)

/-- A state with every error value in it renamed. -/
def State.rename (f : BusError → BusError) (g : LineError → LineError) (s : State) : State :=
  { s with
    xres := renameXRes f s.xres
    result := s.result.map (renameResult f g)
    results := s.results.map fun r => { r with result := renameResult f g r.result }
    trace := s.trace.map (renameEntry f g)
    answers := s.answers.map (renameAnswer f g) }

/-- Whether every response among the fixed answers is long enough for every exchange of an operation, so that no free byte is
needed to fill one (log 3): six bytes for the frames, 4 + L for a READ. -/
def fullResponses (i : Instr) (answers : List Answer) : Prop :=
  ∀ rx : List Byte, Answer.ok rx ∈ answers → 6 ≤ rx.length ∧ ∀ (a : Addr) (l : Nat), i = .read a l → 4 + l ≤ rx.length

/-! ### Agreement with the pseudocode (R27) -/

/-- Whether an outcome of `exec` agrees with a run of the pseudocode from the same state: same trace, same result, same
configured, blocking, line levels and remaining answers; where the pseudocode stands at an unanswered event, so does the
block, with no result reported. -/
def Agrees (s : State) (r : Pseudo.Run OpValue) (o : Host.Outcome State Fault Refusal) : Prop :=
  match r with
  | .done v w => ∃ t, o = .next t ∧ Pseudo.worldOf t = w ∧ t.phase = .idle ∧
      t.results = s.results ++ [⟨.ok v, w.configured, w.blocking⟩]
  | .raised k w => ∃ t, o = .next t ∧ Pseudo.worldOf t = w ∧ t.phase = .idle ∧
      t.results = s.results ++ [⟨.err k, w.configured, w.blocking⟩]
  | .waiting w => ∃ t, o = .next t ∧ Pseudo.worldOf t = w ∧ t.phase.atEvent = true ∧ t.results = s.results

end Sys2Proof.Machine
end

