-- ==== Sys2Proof/Certificates/Slice0/Obligations.lean ====
section
/-!
DEFINITION. The statements for the provers.
-/

open Sys2Proof Sys2Proof.Machine

/-! ### Encodings -/

/-- Decoding an encoded well-formed instruction gives it back, with every operand at every value (R80, R82 to R91, R98), for
every prelude byte but the three one-byte opcodes, with which the prelude frame would coincide. -/
def Obligations.DecodeInvertsEncode : Prop :=
  ∀ (pre : Byte) (i : Instr), i.wf = true → (i = .wsPrelude → pre ≠ 0x06 ∧ pre ≠ 0x04 ∧ pre ≠ 0x60) →
    decode pre (encode pre i) = .ok i

/-- A window that decodes is exactly the frame of the instruction it decodes to, which is well formed and no host operation: no
byte string has two meanings and no byte is dropped (R82, R97, R98). -/
def Obligations.FrameDecodeIsExact : Prop :=
  ∀ (pre : Byte) (bytes : List Byte) (i : Instr), decodeFrame pre bytes = .ok i →
    encode pre i = .frame bytes ∧ i.wf = true ∧ i.isHostOp = false

/-- Words written out from the spec's encodings (R80, R84 to R91) decode to the instructions they stand for. -/
def Obligations.SpecWordsDecode : Prop :=
  decodeFrame 0x00 [0x05, 0x00] = .ok .rdsr ∧
  decodeFrame 0x00 [0x06] = .ok .wren ∧
  decodeFrame 0x00 [0x04] = .ok .wrdi ∧
  decodeFrame 0x00 [0x01, 0x84] = .ok (.wrsr ⟨true, false, false, false, true⟩) ∧
  decodeFrame 0x00 [0x02, 0x07, 0xA1, 0x20, 0x66] = .ok (.byteProg 0x07A120 0x66) ∧
  decodeFrame 0x00 [0xAD, 0x07, 0xA1, 0x20, 0x96, 0x64] = .ok (.aaiFirst 0x07A120 0x96 0x64) ∧
  decodeFrame 0x00 [0xAD, 0x44, 0x55] = .ok (.aaiNext 0x44 0x55) ∧
  decodeFrame 0x00 [0x60] = .ok .chipErase ∧
  decodeFrame 0x00 [0x03, 0xFF, 0xFF, 0xFE, 0x00, 0x00] = .ok (.readMem 0xFFFFFE 2) ∧
  decodeFrame 0x00 [0x00] = .ok .wsPrelude ∧
  decodeRequest { Request.bare 0x5 with addr := 0x7A120, data := 0x66 } = .ok (.byteProgram 0x7A120 0x66) ∧
  decodeRequest { Request.bare 0x6 with addr := 0x0, buf := [0x11, 0x22] } = .ok (.aaiProgram 0x0 [0x11, 0x22])

/-- What each OP code names and which operands it uses; the codes 0x9 to 0xF name no operation (R80, R81, R195). -/
def Obligations.RequestCodesNameOperations : Prop :=
  ∀ r : Request,
    (r.op = 0x0 → decodeRequest r = .ok .readStatus) ∧
    (r.op = 0x1 → decodeRequest r = .ok .writeEnable) ∧
    (r.op = 0x2 → decodeRequest r = .ok .writeDisable) ∧
    (r.op = 0x3 → decodeRequest r = .ok (.writeStatus r.statIn)) ∧
    (r.op = 0x4 → decodeRequest r = .ok .eraseFull) ∧
    (r.op = 0x5 → decodeRequest r = .ok (.byteProgram r.addr r.data)) ∧
    (r.op = 0x6 → decodeRequest r = .ok (.aaiProgram r.addr r.buf)) ∧
    (r.op = 0x7 → 1 ≤ r.rlen → decodeRequest r = .ok (.read r.addr r.rlen)) ∧
    (r.op = 0x7 → r.rlen = 0 → decodeRequest r = .error .readLengthZero) ∧
    (r.op = 0x8 → decodeRequest r = .ok (.setBlocking r.b)) ∧
    (0x9 ≤ r.op.toNat → decodeRequest r = .error (.reservedOp r.op))

/-! ### Codec and address -/

/-- `encode(decode(v)) = v AND 0xBC` for every byte v (R113). -/
def Obligations.CodecKeepsExactlyTheWritableBits : Prop :=
  ∀ v : Byte, encodeStatus (decodeStatus v) = v &&& 0xBC

/-- `decode(encode(st))` clears the three chip-controlled fields and keeps the others; `encode` after `decode` is idempotent
(R114). -/
def Obligations.DecodeAfterEncodeClearsChipFields : Prop :=
  ∀ st : Status,
    decodeStatus (encodeStatus st) = { st with busy := false, writeEnabled := false, aaiProgrammingMode := false } ∧
    encodeStatus (decodeStatus (encodeStatus st)) = encodeStatus st

/-- `decode` is a bijection, and the image of `encode` is the bytes with bits 0, 1 and 6 clear (R110, R111). -/
def Obligations.CodecImages : Prop :=
  (∀ st : Status, ∃ r : Byte, decodeStatus r = st ∧ ∀ r' : Byte, decodeStatus r' = st → r' = r) ∧
  (∀ b : Byte, (∃ st : Status, encodeStatus st = b) ↔ b &&& 0x43 = 0)

/-- Exactly the addresses up to 16,777,216 are accepted (R57, R120). -/
def Obligations.AddressAcceptedUpToMaximum : Prop :=
  ∀ a : Addr, addressAccepted a = true ↔ a.toNat ≤ 16777216

/-- The address field is big-endian and injective up to 0xFFFFFF; on the accepted range 0 and 0x1000000 collide under the
decided configuration (R124). -/
def Obligations.AddressFieldIsBigEndian : Prop :=
  (∀ (cfg : Config) (a : Addr), a.toNat ≤ 0xFFFFFF →
    ∃ b2 b1 b0 : Byte, addrField (wireAddress cfg a) = [b2, b1, b0] ∧
      a.toNat = b2.toNat * 65536 + b1.toNat * 256 + b0.toNat) ∧
  (∀ (cfg : Config) (a a' : Addr), a.toNat ≤ 0xFFFFFF → a'.toNat ≤ 0xFFFFFF →
    addrField (wireAddress cfg a) = addrField (wireAddress cfg a') → a = a') ∧
  addrField (wireAddress Config.decided 0x1000000) = addrField (wireAddress Config.decided 0x0)

/-- The numbers of the results: 0 for Ok, 1 to 8 for the error kinds, whatever their payload (R230, D18). -/
def Obligations.ResultsAreNumbered : Prop :=
  ∀ (v : OpValue) (eb : BusError) (el : LineError),
    resultCode (.ok v) = 0 ∧ resultCode (.err (.transferFailure eb)) = 1 ∧ resultCode (.err (.enableLineFailure el)) = 2 ∧
    resultCode (.err (.holdLineFailure el)) = 3 ∧ resultCode (.err (.writeProtectLineFailure el)) = 4 ∧
    resultCode (.err .busy) = 5 ∧ resultCode (.err .invalidAddress) = 6 ∧ resultCode (.err .bufferTooSmall) = 7 ∧
    resultCode (.err .bufferUneven) = 8

/-! ### Reset and the step -/

/-- After reset: `configured` 0, `blocking` 1, PHASE IDLE, the three line levels X, and the block waits in IDLE for the first
request (R261). -/
def Obligations.ResetValues : Prop :=
  State.reset.configured = false ∧ State.reset.blocking = true ∧ State.reset.phase = .idle ∧
  State.reset.ce = .x ∧ State.reset.wp = .x ∧ State.reset.hold = .x ∧
  step State.reset = .next State.reset

/-- A step runs the decoded instruction: in IDLE the request at the port, which is thereby taken from the host's program; at the
start of a transaction the frame about to be sent (R27, R82, R250). With no request the block waits in IDLE. In every other
phase the step is one phase transition of the operation that OP names. -/
def Obligations.StepRunsDecodedInstruction : Prop :=
  (∀ (s : State) (r : Request) (rest : List Request) (i : Instr), s.phase = .idle → s.program = r :: rest →
    decodeRequest r = .ok i → step s = exec i { s with program := rest }) ∧
  (∀ (s : State) (i : Instr), (s.phase = .cfgHold ∨ s.phase = .ceLow) →
    decodeFrame s.cfg.wsPrelude (windowBytes s) = .ok i → step s = exec i s) ∧
  (∀ s : State, s.phase = .idle → s.program = [] → step s = .next s) ∧
  (∀ s : State, s.phase ≠ .idle → s.phase ≠ .cfgHold → s.phase ≠ .ceLow →
    step s = .next (tick (microprogram s.op) s))

/-- What a step does in VALIDATE, operation by operation (R27, R120, R150 to R153, R170 to R172, R190, R193, R214): the operand
checks, and then the first transaction is begun, an error is raised, or `set_blocking` writes the flag. No event. That the registers
whose lives are over keep what they held is the model's choice (logs 20 and 25), and so is the latch for B (log 26). -/
def Obligations.StepInValidateBeginsTheOperation : Prop :=
  ∀ s : State, s.phase = .validate →
    (s.op = .readStatus → step s = .next (s.beginTxn .main [0x05, 0x00])) ∧
    (s.op = .writeEnable → step s = .next (s.beginTxn .main [0x06])) ∧
    (s.op = .writeDisable → step s = .next (s.beginTxn .main [0x04])) ∧
    (s.op = .writeStatus → step s = .next (s.beginTxn .enable [0x06])) ∧
    (s.op = .eraseFull → step s = .next (s.beginTxn .enable [0x06])) ∧
    (s.op = .byteProgram → s.addr.toNat ≤ 16777216 → step s = .next (s.beginTxn .enable [0x06])) ∧
    (s.op = .byteProgram → 16777216 < s.addr.toNat → step s = .next (s.raise .invalidAddress)) ∧
    (s.op = .aaiProgram → 16777216 < s.addr.toNat → step s = .next (s.raise .invalidAddress)) ∧
    (s.op = .aaiProgram → s.addr.toNat ≤ 16777216 → s.buf.length < 2 → step s = .next (s.raise .bufferTooSmall)) ∧
    (s.op = .aaiProgram → s.addr.toNat ≤ 16777216 → 2 ≤ s.buf.length → s.buf.length % 2 = 1 →
      step s = .next (s.raise .bufferUneven)) ∧
    (s.op = .aaiProgram → s.addr.toNat ≤ 16777216 → 2 ≤ s.buf.length → s.buf.length % 2 = 0 →
      step s = .next (s.beginTxn .enable [0x06])) ∧
    (s.op = .read → 16777216 < s.addr.toNat → step s = .next (s.raise .invalidAddress)) ∧
    (s.op = .read → s.addr.toNat ≤ 16777216 → s.cfg.readFraming = .split →
      step s = .next (s.beginTxn .main (0x03 :: addrField (wireAddress s.cfg s.addr)))) ∧
    (s.op = .read → s.addr.toNat ≤ 16777216 → s.cfg.readFraming = .joined →
      step s = .next (s.beginTxn .main (0x03 :: (addrField (wireAddress s.cfg s.addr) ++ zeros s.rlen)))) ∧
    (s.op = .setBlocking → step s = .next { s with blocking := s.bIn, phase := .respond, result := some (.ok .unit) })

/-- What a step does inside a transaction and in RESPOND, for every answer (R27, R130, R132, R135, R137): the rows CFG_WP, XFER,
XFER2, CE_HIGH and RESPOND of the phase table. That a failed exchange leaves RX as it was, and that both exchanges of a split read
write XRES, and that FRAME and XRES keep their values after the release, is the model's choice (logs 20, 24 and 25). -/
def Obligations.StepFollowsPhaseTable : Prop :=
  ∀ (s : State) (rx : List Byte) (e : Failure) (rest : List Answer),
    (s.phase = .cfgWp → s.answers = .ok rx :: rest → step s = .next { s with
      wp := .low, configured := true, phase := .ceLow, answers := rest, trace := s.trace ++ [.lineSet .wp .low none] }) ∧
    (s.phase = .cfgWp → s.answers = .fail e :: rest → step s = .next { s with
      wp := .x, phase := .respond, result := some (.err (.writeProtectLineFailure e.line)), answers := rest
      trace := s.trace ++ [.lineSet .wp .low (some e.line)] }) ∧
    (s.phase = .xfer → (s.cfg.readFraming = .joined ∨ isReadCommand s.frame = false) → rx.length = s.frame.length →
      s.answers = .ok rx :: rest → step s = .next { s with
        rx := rx, xres := .ok, phase := .ceHigh, answers := rest, trace := s.trace ++ [.xfer s.frame (.ok rx)] }) ∧
    (s.phase = .xfer → s.cfg.readFraming = .split → isReadCommand s.frame = true → rx.length = s.frame.length →
      s.answers = .ok rx :: rest → step s = .next { s with
        rx := rx, xres := .ok, frame := zeros s.rlen, phase := .xfer2, answers := rest
        trace := s.trace ++ [.xfer s.frame (.ok rx)] }) ∧
    (s.phase = .xfer → s.answers = .fail e :: rest → step s = .next { s with
      xres := .fail e.bus, phase := .ceHigh, answers := rest, trace := s.trace ++ [.xfer s.frame (.fail e.bus)] }) ∧
    (s.phase = .xfer2 → rx.length = s.frame.length → s.answers = .ok rx :: rest → step s = .next { s with
      rx := rx, xres := .ok, phase := .ceHigh, answers := rest, trace := s.trace ++ [.xfer s.frame (.ok rx)] }) ∧
    (s.phase = .xfer2 → s.answers = .fail e :: rest → step s = .next { s with
      xres := .fail e.bus, phase := .ceHigh, answers := rest, trace := s.trace ++ [.xfer s.frame (.fail e.bus)] }) ∧
    (s.phase = .ceHigh → s.xres = .ok → s.answers = .ok rx :: rest → step s = .next { s with
      ce := .high, phase := .next, answers := rest, trace := s.trace ++ [.lineSet .ce .high none] }) ∧
    (∀ eb : BusError, s.phase = .ceHigh → s.xres = .fail eb → s.answers = .ok rx :: rest → step s = .next { s with
      ce := .high, phase := .respond, result := some (.err (.transferFailure eb)), answers := rest
      trace := s.trace ++ [.lineSet .ce .high none] }) ∧
    (s.phase = .ceHigh → s.answers = .fail e :: rest → step s = .next { s with
      ce := .x, phase := .respond, result := some (.err (.enableLineFailure e.line)), answers := rest
      trace := s.trace ++ [.lineSet .ce .high (some e.line)] }) ∧
    (∀ r : OpResult, s.phase = .respond → s.result = some r → step s = .next { s with
      phase := .idle, results := s.results ++ [⟨r, s.configured, s.blocking⟩] })

/-- What a step does in NEXT, operation by operation and transaction by transaction (R27, R150 to R153, R170, R172, R190, R193, R210,
R211): the next frame, the poll, the error Busy, or the result. No event. The name of the transaction is the model's field `stage`
(log 7), and IDX is 0 while the first chunk is out (log 16). That RX and XRES keep what the transaction left in them is the model's
choice (log 25). -/
def Obligations.StepInNextContinuesTheOperation : Prop :=
  ∀ s : State, s.phase = .next →
    (∀ r0 r1 : Byte, s.op = .readStatus → s.rx = [r0, r1] →
      step s = .next (s.returnOk (.status (decodeStatus r1)))) ∧
    (s.op = .writeEnable ∨ s.op = .writeDisable → step s = .next (s.returnOk .unit)) ∧
    (s.op = .writeStatus → s.stage = .enable → step s = .next (s.beginTxn .middle [s.cfg.wsPrelude])) ∧
    (s.op = .writeStatus → s.stage = .middle → step s = .next (s.beginTxn .main [0x01, encodeStatus s.statIn])) ∧
    (s.op = .writeStatus → s.stage = .main → step s = .next (s.returnOk .unit)) ∧
    ((s.op = .eraseFull ∨ s.op = .byteProgram ∨ s.op = .aaiProgram) →
      (s.stage = .enable → step s = .next (s.beginTxn .check [0x05, 0x00])) ∧
      (s.stage = .check → statusResponse true s.rx → step s = .next (s.raise .busy)) ∧
      (s.stage = .poll → statusResponse true s.rx → step s = .next (s.beginTxn .poll [0x05, 0x00]))) ∧
    (s.op = .eraseFull →
      (s.stage = .check → statusResponse false s.rx → step s = .next (s.beginTxn .main [0x60])) ∧
      (s.stage = .main → step s = .next (s.beginTxn .poll [0x05, 0x00])) ∧
      (s.stage = .poll → statusResponse false s.rx → step s = .next (s.returnOk .unit))) ∧
    (s.op = .byteProgram →
      (s.stage = .check → statusResponse false s.rx →
        step s = .next (s.beginTxn .main (0x02 :: (addrField (wireAddress s.cfg s.addr) ++ [s.data])))) ∧
      (s.stage = .main → s.blocking = true → step s = .next (s.beginTxn .poll [0x05, 0x00])) ∧
      (s.stage = .main → s.blocking = false → step s = .next (s.returnOk .unit)) ∧
      (s.stage = .poll → statusResponse false s.rx → step s = .next (s.returnOk .unit))) ∧
    (s.op = .aaiProgram →
      (s.stage = .check → statusResponse false s.rx →
        step s = .next (State.beginTxn .main (aaiChunkFrame s.cfg s.addr s.buf 0) { s with idx := 0 })) ∧
      ((s.stage = .main ∨ s.stage = .chunk) → step s = .next (s.beginTxn .poll [0x05, 0x00])) ∧
      (s.stage = .poll → statusResponse false s.rx → s.idx + 2 ≤ s.buf.length / 2 →
        step s = .next (State.beginTxn .chunk (aaiChunkFrame s.cfg s.addr s.buf (s.idx + 1)) { s with idx := s.idx + 1 })) ∧
      (s.stage = .poll → statusResponse false s.rx → s.buf.length / 2 < s.idx + 2 →
        step s = .next (State.beginTxn .disable [0x04] { s with idx := s.idx + 1 })) ∧
      (s.stage = .disable → step s = .next (s.returnOk .unit))) ∧
    (s.op = .read → s.cfg.readFraming = .split → step s = .next (s.returnOk (.bytes s.rx))) ∧
    (s.op = .read → s.cfg.readFraming = .joined → step s = .next (s.returnOk (.bytes (s.rx.drop 4))))

/-- Steps resume an operation where its answers ran out (R27, R28): if `exec`, with the answers `as` fixed, leaves the operation at an
event, then from there, with the answers `bs` fixed, steps reach exactly the outcome of `exec` with `as ++ bs` fixed from the
start. So the operation that `step` continues is the one that was requested. -/
def Obligations.StepsResumeTheOperation : Prop :=
  ∀ (i : Instr) (s t : State) (as bs : List Answer), i.isHostOp = true → exec i { s with answers := as } = .next t →
    t.phase.atEvent = true →
    ∃ n : Nat, steps n { t with answers := bs } = exec i { s with answers := as ++ bs }

/-- A request with a reserved OP code is refused: no transition (R81). -/
def Obligations.ReservedCodesAreRefused : Prop :=
  ∀ (s : State) (r : Request) (rest : List Request), s.phase = .idle → s.program = r :: rest → 0x9 ≤ r.op.toNat →
    step s = .refused (.reservedOp r.op)

/-- A read of no bytes is refused (R195), as an operation, as a request and as a frame. -/
def Obligations.ZeroLengthReadIsRefused : Prop :=
  (∀ (a : Addr) (s : State), exec (.read a 0) s = .refused .readLengthZero) ∧
  (∀ (a : WireAddr) (s : State), exec (.readMem a 0) s = .refused .readLengthZero) ∧
  (∀ (s : State) (r : Request) (rest : List Request), s.phase = .idle → s.program = r :: rest → r.op = 0x7 → r.rlen = 0 →
    step s = .refused .readLengthZero)

/-- A request above a configured bound L_MAX or BUF_MAX is refused in IDLE; without a bound none is (R6; what happens above a bound is
the model's choice, log 11). -/
def Obligations.RequestsAboveBoundAreRefused : Prop :=
  (∀ (s : State) (a : Addr) (l m : Nat), s.phase = .idle → 1 ≤ l → s.cfg.lMax = some m → m < l →
    exec (.read a l) s = .refused .aboveBound) ∧
  (∀ (s : State) (a : Addr) (buf : List Byte) (m : Nat), s.phase = .idle → s.cfg.bufMax = some m → m < buf.length →
    exec (.aaiProgram a buf) s = .refused .aboveBound) ∧
  (∀ i : Instr, Config.decided.admits i = true)

/-- A host operation is accepted in IDLE only (R250). -/
def Obligations.HostOpOutsideIdleIsRefused : Prop :=
  ∀ (i : Instr) (s : State), i.isHostOp = true → i.wf = true → s.phase ≠ .idle → exec i s = .refused .notIdle

/-- At most one event a step (R28): in the middle of a transaction or between two, and in every phase where the environment has
fixed no answer in advance. That a step makes several where answers are fixed is the model's choice (log 10). -/
def Obligations.OneEventPerStep : Prop :=
  ∀ s t : State, (s.answers = [] ∨ (s.phase ≠ .idle ∧ s.phase ≠ .cfgHold ∧ s.phase ≠ .ceLow)) → step s = .next t →
    t.trace = s.trace ∨ ∃ e : Entry, t.trace = s.trace ++ [e]

/-! ### The wire frames: one transaction each -/

/-- Every frame but READ, on the success path (R130, R132): the configuration if it is due, CE Low, the exchange of exactly the
frame's bytes, CE High; the response is in RX and the block is between transactions. Nothing else changes. That FRAME and XRES still
hold the frame and its answer after the release, where their lives are over (R24, R25), is the model's choice (log 25). -/
def Obligations.PlainFrameCompletes : Prop :=
  ∀ (i : Instr) (s : State) (bytes rx : List Byte) (rest : List Answer), Instr.isPlainFrame i = true →
    encode s.cfg.wsPrelude i = .frame bytes → rx.length = bytes.length →
    s.answers = configAnswers s ++ txnAnswers rx ++ rest →
    exec i s = .next
      { s with
        configured := true
        hold := if s.configured then s.hold else .high
        wp := if s.configured then s.wp else .low
        ce := .high
        frame := bytes
        rx := rx
        xres := .ok
        phase := .next
        trace := s.trace ++ (configEntries s ++ txnEntries bytes rx)
        answers := rest }

/-- The READ frame on the success path, under both framings (R137, R138): two exchanges in one window, or one. That
FRAME and XRES still hold the last frame and its answer after the release is the model's choice (log 25), and so is that RLEN takes
the frame's L, whatever it held (log 27). -/
def Obligations.ReadFrameCompletes : Prop :=
  (∀ (a : WireAddr) (l : Nat) (s : State) (rx1 rx2 : List Byte) (rest : List Answer), 1 ≤ l →
    s.cfg.readFraming = .split → rx1.length = 4 → rx2.length = l →
    s.answers = configAnswers s ++ [.ok [], .ok rx1, .ok rx2, .ok []] ++ rest →
    exec (.readMem a l) s = .next
      { s with
        configured := true
        hold := if s.configured then s.hold else .high
        wp := if s.configured then s.wp else .low
        ce := .high
        rlen := l
        frame := zeros l
        rx := rx2
        xres := .ok
        phase := .next
        trace := s.trace ++ (configEntries s ++ [.lineSet .ce .low none, .xfer (0x03 :: addrField a) (.ok rx1),
          .xfer (zeros l) (.ok rx2), .lineSet .ce .high none])
        answers := rest }) ∧
  (∀ (a : WireAddr) (l : Nat) (s : State) (rx : List Byte) (rest : List Answer), 1 ≤ l →
    s.cfg.readFraming = .joined → rx.length = 4 + l →
    s.answers = configAnswers s ++ txnAnswers rx ++ rest →
    exec (.readMem a l) s = .next
      { s with
        configured := true
        hold := if s.configured then s.hold else .high
        wp := if s.configured then s.wp else .low
        ce := .high
        rlen := l
        frame := 0x03 :: (addrField a ++ zeros l)
        rx := rx
        xres := .ok
        phase := .next
        trace := s.trace ++ (configEntries s ++ txnEntries (0x03 :: (addrField a ++ zeros l)) rx)
        answers := rest })

/-- The four cases after a successful assertion of CE (R135), for every frame but READ, in the transaction that configures the
lines as in a later one: the release is always commanded, and its failure supersedes the exchange's. The first case returns the
response; each other ends in RESPOND with its error. That FRAME and XRES still hold the frame and its answer after the release is the
model's choice (log 25). -/
def Obligations.TransactionFailurePrecedence : Prop :=
  ∀ (i : Instr) (s : State) (bytes : List Byte) (rest : List Answer), Instr.isPlainFrame i = true →
    encode s.cfg.wsPrelude i = .frame bytes →
    (∀ rx : List Byte, rx.length = bytes.length → s.answers = configAnswers s ++ [.ok [], .ok rx, .ok []] ++ rest →
      exec i s = .next { s with
        configured := true
        hold := if s.configured then s.hold else .high
        wp := if s.configured then s.wp else .low
        frame := bytes, rx := rx, xres := .ok, ce := .high, phase := .next, answers := rest
        trace := s.trace ++ (configEntries s ++
          [.lineSet .ce .low none, .xfer bytes (.ok rx), .lineSet .ce .high none]) }) ∧
    (∀ (rx : List Byte) (el : Failure), rx.length = bytes.length →
      s.answers = configAnswers s ++ [.ok [], .ok rx, .fail el] ++ rest →
      ∃ t : State, exec i s = .next t ∧
        WindowFailed s t [.xfer bytes (.ok rx)] (some el.line) (.enableLineFailure el.line) rest) ∧
    (∀ eb : Failure, s.answers = configAnswers s ++ [.ok [], .fail eb, .ok []] ++ rest →
      ∃ t : State, exec i s = .next t ∧ WindowFailed s t [.xfer bytes (.fail eb.bus)] none (.transferFailure eb.bus) rest) ∧
    (∀ eb el : Failure, s.answers = configAnswers s ++ [.ok [], .fail eb, .fail el] ++ rest →
      ∃ t : State, exec i s = .next t ∧
        WindowFailed s t [.xfer bytes (.fail eb.bus)] (some el.line) (.enableLineFailure el.line) rest)

/-- A failed assertion of CE ends any frame's transaction with EnableLineFailure: no exchange and no release (R133), in the
transaction that configures the lines as in a later one. -/
def Obligations.FailedAssertionEndsTransaction : Prop :=
  ∀ (i : Instr) (s : State) (e : Failure) (rest : List Answer), i.isHostOp = false → i.wf = true →
    s.answers = configAnswers s ++ [.fail e] ++ rest →
    ∃ t : State, exec i s = .next t ∧ t.phase = .respond ∧ t.result = some (.err (.enableLineFailure e.line)) ∧ t.ce = .x ∧
      t.trace = s.trace ++ (configEntries s ++ [.lineSet .ce .low (some e.line)]) ∧ t.answers = rest ∧
      t.configured = true ∧ t.hold = (if s.configured then s.hold else .high) ∧
      t.wp = (if s.configured then s.wp else .low)

/-- The two failures of the configuration, in any frame's transaction: HOLD first, then WP; `configured` stays 0 and no
chip-enable activity or exchange takes place, so RX and XRES are as before (R234, R237; that no other event writes them is the
model's choice, logs 20 and 25). -/
def Obligations.ConfigurationFailures : Prop :=
  ∀ (i : Instr) (s : State) (e : Failure) (rest : List Answer), i.isHostOp = false → i.wf = true → s.configured = false →
    (s.answers = .fail e :: rest →
      ∃ t : State, exec i s = .next t ∧ t.phase = .respond ∧ t.result = some (.err (.holdLineFailure e.line)) ∧
        t.configured = false ∧ t.hold = .x ∧ t.wp = s.wp ∧ t.ce = s.ce ∧ t.answers = rest ∧
        t.rx = s.rx ∧ t.xres = s.xres ∧ t.trace = s.trace ++ [.lineSet .hold .high (some e.line)]) ∧
    (∀ rx : List Byte, s.answers = .ok rx :: .fail e :: rest →
      ∃ t : State, exec i s = .next t ∧ t.phase = .respond ∧ t.result = some (.err (.writeProtectLineFailure e.line)) ∧
        t.configured = false ∧ t.hold = .high ∧ t.wp = .x ∧ t.ce = s.ce ∧ t.answers = rest ∧
        t.rx = s.rx ∧ t.xres = s.xres ∧ t.trace = s.trace ++ [.lineSet .hold .high none, .lineSet .wp .low (some e.line)])

/-- The five failures of a split READ window after the selection (R134, R135, R137): a failed first exchange is followed by the
release, not by the second exchange, a failed second exchange by the release, and a failed release supersedes both. They
hold in the transaction that configures the lines as in a later one. -/
def Obligations.SplitReadFailures : Prop :=
  ∀ (a : WireAddr) (l : Nat) (s : State) (rest : List Answer), 1 ≤ l → s.cfg.readFraming = .split →
    (∀ e : Failure, s.answers = configAnswers s ++ [.ok [], .fail e, .ok []] ++ rest →
      ∃ t : State, exec (.readMem a l) s = .next t ∧
        WindowFailed s t [.xfer (0x03 :: addrField a) (.fail e.bus)] none (.transferFailure e.bus) rest) ∧
    (∀ (rx : List Byte) (e : Failure), rx.length = 4 → s.answers = configAnswers s ++ [.ok [], .ok rx, .fail e, .ok []] ++ rest →
      ∃ t : State, exec (.readMem a l) s = .next t ∧
        WindowFailed s t [.xfer (0x03 :: addrField a) (.ok rx), .xfer (zeros l) (.fail e.bus)] none
          (.transferFailure e.bus) rest) ∧
    (∀ e el : Failure, s.answers = configAnswers s ++ [.ok [], .fail e, .fail el] ++ rest →
      ∃ t : State, exec (.readMem a l) s = .next t ∧
        WindowFailed s t [.xfer (0x03 :: addrField a) (.fail e.bus)] (some el.line) (.enableLineFailure el.line) rest) ∧
    (∀ (rx : List Byte) (e el : Failure), rx.length = 4 → s.answers = configAnswers s ++ [.ok [], .ok rx, .fail e, .fail el] ++ rest →
      ∃ t : State, exec (.readMem a l) s = .next t ∧
        WindowFailed s t [.xfer (0x03 :: addrField a) (.ok rx), .xfer (zeros l) (.fail e.bus)] (some el.line)
          (.enableLineFailure el.line) rest) ∧
    (∀ (rx1 rx2 : List Byte) (el : Failure), rx1.length = 4 → rx2.length = l →
      s.answers = configAnswers s ++ [.ok [], .ok rx1, .ok rx2, .fail el] ++ rest →
      ∃ t : State, exec (.readMem a l) s = .next t ∧
        WindowFailed s t [.xfer (0x03 :: addrField a) (.ok rx1), .xfer (zeros l) (.ok rx2)] (some el.line)
          (.enableLineFailure el.line) rest)

/-- The failures of a joined READ window, as of every frame with one exchange (R135, R138), in the transaction that configures the
lines as in a later one. -/
def Obligations.JoinedReadFailures : Prop :=
  ∀ (a : WireAddr) (l : Nat) (s : State) (rest : List Answer), 1 ≤ l → s.cfg.readFraming = .joined →
    (∀ e : Failure, s.answers = configAnswers s ++ [.ok [], .fail e, .ok []] ++ rest →
      ∃ t : State, exec (.readMem a l) s = .next t ∧
        WindowFailed s t [.xfer (0x03 :: (addrField a ++ zeros l)) (.fail e.bus)] none (.transferFailure e.bus) rest) ∧
    (∀ e el : Failure, s.answers = configAnswers s ++ [.ok [], .fail e, .fail el] ++ rest →
      ∃ t : State, exec (.readMem a l) s = .next t ∧
        WindowFailed s t [.xfer (0x03 :: (addrField a ++ zeros l)) (.fail e.bus)] (some el.line) (.enableLineFailure el.line) rest) ∧
    (∀ (rx : List Byte) (el : Failure), rx.length = 4 + l → s.answers = configAnswers s ++ [.ok [], .ok rx, .fail el] ++ rest →
      ∃ t : State, exec (.readMem a l) s = .next t ∧
        WindowFailed s t [.xfer (0x03 :: (addrField a ++ zeros l)) (.ok rx)] (some el.line) (.enableLineFailure el.line) rest)

/-- What a wire frame leaves alone, whatever the environment answers: every operand latch (RLEN but for READ), the chunk
counter, OP, the place in the operation, `blocking`, the results, the host's requests and the configuration. A frame may be executed in
any state (log 21): that the operand latches and IDX keep what they hold outside their lives too is the model's choice (logs 20 and
25), and so are the latch for B (log 26) and the exception of RLEN for READ (log 27). -/
def Obligations.WireFrameLeavesTheRest : Prop :=
  ∀ (i : Instr) (s t : State), i.isHostOp = false → exec i s = .next t →
    t.op = s.op ∧ t.addr = s.addr ∧ t.data = s.data ∧ t.statIn = s.statIn ∧ t.buf = s.buf ∧ t.bIn = s.bIn ∧
    t.idx = s.idx ∧ t.stage = s.stage ∧ t.blocking = s.blocking ∧ t.results = s.results ∧ t.program = s.program ∧
    t.cfg = s.cfg ∧ ((∀ a l, i ≠ .readMem a l) → t.rlen = s.rlen)

/-! ### The host operations on the success path -/

/-- `read_status` (R150): one RDSR transaction, and the result is response byte 1 decoded. -/
def Obligations.ReadStatusCompletes : Prop :=
  ∀ (s : State) (b0 b1 : Byte) (rest : List Answer), s.phase = .idle →
    s.answers = configAnswers s ++ txnAnswers [b0, b1] ++ rest →
    ∃ t : State, exec .readStatus s = .next t ∧
      Finished s t (configEntries s ++ txnEntries [0x05, 0x00] [b0, b1]) (.ok (.status (decodeStatus b1))) rest

/-- `write_enable` and `write_disable` (R151, R152): one WREN or WRDI transaction, and the result is Ok. -/
def Obligations.LatchOperationsComplete : Prop :=
  ∀ (s : State) (rx : List Byte) (rest : List Answer), s.phase = .idle → rx.length = 1 →
    s.answers = configAnswers s ++ txnAnswers rx ++ rest →
    (∃ t : State, exec .writeEnable s = .next t ∧
      Finished s t (configEntries s ++ txnEntries [0x06] rx) (.ok .unit) rest) ∧
    (∃ t : State, exec .writeDisable s = .next t ∧
      Finished s t (configEntries s ++ txnEntries [0x04] rx) (.ok .unit) rest)

/-- `write_status` (R153): WREN, the prelude byte, WRSR with the encoded operand, each its own transaction; no status read. -/
def Obligations.WriteStatusCompletes : Prop :=
  ∀ (st : Status) (s : State) (rx1 rx2 rx3 : List Byte) (rest : List Answer), s.phase = .idle →
    rx1.length = 1 → rx2.length = 1 → rx3.length = 2 →
    s.answers = configAnswers s ++ (txnAnswers rx1 ++ txnAnswers rx2 ++ txnAnswers rx3) ++ rest →
    ∃ t : State, exec (.writeStatus st) s = .next t ∧
      Finished s t (configEntries s ++ (txnEntries [0x06] rx1 ++ txnEntries [s.cfg.wsPrelude] rx2 ++
        txnEntries [0x01, encodeStatus st] rx3)) (.ok .unit) rest

/-- `erase_full` (R190, R191): WREN, the idle check, CHIP_ERASE, and a forced wait in both modes, through any number of busy
polls. -/
def Obligations.EraseFullCompletes : Prop :=
  ∀ (s : State) (rx1 rx2 rx3 : List Byte) (busy : List (List Byte)) (last : List Byte) (rest : List Answer),
    s.phase = .idle → rx1.length = 1 → statusResponse false rx2 → rx3.length = 1 → waitResponses busy last →
    s.answers = configAnswers s ++ (txnAnswers rx1 ++ txnAnswers rx2 ++ txnAnswers rx3 ++ waitAnswers busy last) ++ rest →
    ∃ t : State, exec .eraseFull s = .next t ∧
      Finished s t (configEntries s ++ (txnEntries [0x06] rx1 ++ txnEntries [0x05, 0x00] rx2 ++ txnEntries [0x60] rx3 ++
        waitEntries busy last)) (.ok .unit) rest

/-- `byte_program` in both modes (R175): with `blocking` 1 the program frame is followed by 1 + (number of busy polls) status
reads, with `blocking` 0 by none; in both modes exactly one status read precedes it. -/
def Obligations.ByteProgramCompletesInBothModes : Prop :=
  ∀ (a : Addr) (d : Byte) (s : State) (rx1 rx2 rx3 : List Byte) (rest : List Answer),
    s.phase = .idle → a.toNat ≤ 16777216 → rx1.length = 1 → statusResponse false rx2 → rx3.length = 5 →
    (∀ (busy : List (List Byte)) (last : List Byte), s.blocking = true → waitResponses busy last →
      s.answers = configAnswers s ++ (txnAnswers rx1 ++ txnAnswers rx2 ++ txnAnswers rx3 ++ waitAnswers busy last) ++ rest →
      ∃ t : State, exec (.byteProgram a d) s = .next t ∧
        Finished s t (configEntries s ++ (txnEntries [0x06] rx1 ++ txnEntries [0x05, 0x00] rx2 ++
          txnEntries (0x02 :: (addrField (wireAddress s.cfg a) ++ [d])) rx3 ++ waitEntries busy last)) (.ok .unit) rest) ∧
    (s.blocking = false →
      s.answers = configAnswers s ++ (txnAnswers rx1 ++ txnAnswers rx2 ++ txnAnswers rx3) ++ rest →
      ∃ t : State, exec (.byteProgram a d) s = .next t ∧
        Finished s t (configEntries s ++ (txnEntries [0x06] rx1 ++ txnEntries [0x05, 0x00] rx2 ++
          txnEntries (0x02 :: (addrField (wireAddress s.cfg a) ++ [d])) rx3)) (.ok .unit) rest)

/-- `aai_program` (R172, R173): WREN, the idle check, LEN/2 chunks in buffer order, the first with the address, each followed by
a forced wait in both modes, and the closing WRDI. -/
def Obligations.AaiProgramCompletes : Prop :=
  ∀ (a : Addr) (buf : List Byte) (s : State) (rx1 rx2 rx3 : List Byte) (runs : List ChunkRun) (rest : List Answer),
    s.phase = .idle → s.cfg.admits (.aaiProgram a buf) = true → a.toNat ≤ 16777216 → 2 ≤ buf.length → buf.length % 2 = 0 →
    rx1.length = 1 → statusResponse false rx2 → rx3.length = 1 →
    runs.length = buf.length / 2 → aaiRunsFit s.cfg a buf runs →
    s.answers = configAnswers s ++ (txnAnswers rx1 ++ txnAnswers rx2 ++ runs.flatMap ChunkRun.answers ++ txnAnswers rx3) ++
      rest →
    ∃ t : State, exec (.aaiProgram a buf) s = .next t ∧
      Finished s t (configEntries s ++ (txnEntries [0x06] rx1 ++ txnEntries [0x05, 0x00] rx2 ++
        aaiChunkEntries s.cfg a buf runs ++ txnEntries [0x04] rx3)) (.ok .unit) rest

/-- `read<L>` under both framings (R193, R137, R138): the result is the L data bytes received, in order; no status read. -/
def Obligations.ReadCompletes : Prop :=
  ∀ (a : Addr) (l : Nat) (s : State) (rx1 rx2 : List Byte) (rest : List Answer), s.phase = .idle → a.toNat ≤ 16777216 →
    s.cfg.admits (.read a l) = true → 1 ≤ l → rx1.length = 4 → rx2.length = l →
    (s.cfg.readFraming = .split →
      s.answers = configAnswers s ++ [.ok [], .ok rx1, .ok rx2, .ok []] ++ rest →
      ∃ t : State, exec (.read a l) s = .next t ∧
        Finished s t (configEntries s ++ [.lineSet .ce .low none,
          .xfer (0x03 :: addrField (wireAddress s.cfg a)) (.ok rx1), .xfer (zeros l) (.ok rx2), .lineSet .ce .high none])
          (.ok (.bytes rx2)) rest) ∧
    (s.cfg.readFraming = .joined →
      s.answers = configAnswers s ++ txnAnswers (rx1 ++ rx2) ++ rest →
      ∃ t : State, exec (.read a l) s = .next t ∧
        Finished s t (configEntries s ++ txnEntries (0x03 :: (addrField (wireAddress s.cfg a) ++ zeros l)) (rx1 ++ rx2))
          (.ok (.bytes rx2)) rest)

/-- `set_blocking` (R214): the flag takes the operand and the result is Ok; no event, no configuration, nothing else. That the
latches of the operands it does not use and the work registers keep what they held, and that a latch holds B, is the model's
choice (logs 23, 25 and 26). -/
def Obligations.SetBlockingCompletes : Prop :=
  ∀ (b : Bool) (s : State), s.phase = .idle →
    exec (.setBlocking b) s = .next
      { s with
        op := .setBlocking
        bIn := b
        blocking := b
        result := some (.ok .unit)
        results := s.results ++ [⟨.ok .unit, s.configured, b⟩] }

/-- A host operation requested in IDLE is accepted whatever the environment answers, L being at least 1 (R195, R250) and the lengths
within the configured bounds (log 11), and its operands are in the latches that are loaded for it (R23). The next state may be
past the result, where R23 calls the latches dead: that they still hold the request there is the model's choice (log 20), and so is
the latch for the operand B of `set_blocking`, for which R23 names none (log 26). -/
def Obligations.AcceptanceLatchesOperands : Prop :=
  ∀ s : State, s.phase = .idle →
    (∃ t : State, exec .readStatus s = .next t ∧ t.op = .readStatus) ∧
    (∃ t : State, exec .writeEnable s = .next t ∧ t.op = .writeEnable) ∧
    (∃ t : State, exec .writeDisable s = .next t ∧ t.op = .writeDisable) ∧
    (∀ st : Status, ∃ t : State, exec (.writeStatus st) s = .next t ∧ t.op = .writeStatus ∧ t.statIn = st) ∧
    (∃ t : State, exec .eraseFull s = .next t ∧ t.op = .eraseFull) ∧
    (∀ (a : Addr) (d : Byte), ∃ t : State, exec (.byteProgram a d) s = .next t ∧
      t.op = .byteProgram ∧ t.addr = a ∧ t.data = d) ∧
    (∀ (a : Addr) (buf : List Byte), s.cfg.admits (.aaiProgram a buf) = true →
      ∃ t : State, exec (.aaiProgram a buf) s = .next t ∧ t.op = .aaiProgram ∧ t.addr = a ∧ t.buf = buf) ∧
    (∀ (a : Addr) (l : Nat), 1 ≤ l → s.cfg.admits (.read a l) = true → ∃ t : State, exec (.read a l) s = .next t ∧
      t.op = .read ∧ t.addr = a ∧ t.rlen = l) ∧
    (∀ b : Bool, ∃ t : State, exec (.setBlocking b) s = .next t ∧ t.op = .setBlocking ∧ t.bIn = b)

/-- What a host operation leaves alone, whatever the environment answers: the configuration, the host's further requests;
`blocking` but for `set_blocking` (R21), IDX but for `aai_program` (R26), and the latches of the operands that it does not use.
R23 has the latches loaded together and the unused operands ignored; that the unused latches keep what they held, and IDX what an
`aai_program` left in it, is the model's choice (logs 23 and 25), and so is the latch for B (log 26). -/
def Obligations.HostOperationLeavesTheRest : Prop :=
  ∀ (i : Instr) (s t : State), i.isHostOp = true → exec i s = .next t →
    t.cfg = s.cfg ∧ t.program = s.program ∧
    ((∀ b, i ≠ .setBlocking b) → t.blocking = s.blocking ∧ t.bIn = s.bIn) ∧
    ((∀ st, i ≠ .writeStatus st) → t.statIn = s.statIn) ∧
    ((∀ a d, i ≠ .byteProgram a d) → t.data = s.data) ∧
    ((∀ a buf, i ≠ .aaiProgram a buf) → t.buf = s.buf ∧ t.idx = s.idx) ∧
    ((∀ a l, i ≠ .read a l) → t.rlen = s.rlen) ∧
    ((∀ a d, i ≠ .byteProgram a d) → (∀ a buf, i ≠ .aaiProgram a buf) → (∀ a l, i ≠ .read a l) → t.addr = s.addr)

/-- The operand latches and the work registers hold nothing that a later operation reads (R23, R24, R34): from two idle states
that differ in them only, in any way, a host operation makes the same events, results and lines, and stands, if it does, before
the same frame. The values that log 5 names for them after reset therefore decide nothing. -/
def Obligations.LatchesAreNeverReadBeforeLoaded : Prop :=
  ∀ (i : Instr) (s u t : State), i.isHostOp = true → s.phase = .idle → SameButRegisters s u → exec i s = .next t →
    ∃ v : State, exec i u = .next v ∧ SameButRegisters t v ∧ t.op = v.op ∧
      (t.phase ≠ .idle → t.frame = v.frame ∧ t.stage = v.stage)

/-! ### Host operations that end with an error -/

/-- An address above the maximum ends the three addressed operations with InvalidAddress before any event, whatever the other
operands (R120, R235); within the bounds that are configured, if any are (log 11). -/
def Obligations.InvalidAddressBeforeAnyEvent : Prop :=
  ∀ (a : Addr) (d : Byte) (buf : List Byte) (l : Nat) (s : State), s.phase = .idle → 16777216 < a.toNat → 1 ≤ l →
    (∃ t : State, exec (.byteProgram a d) s = .next t ∧ RejectedUntouched s t .invalidAddress) ∧
    (s.cfg.admits (.aaiProgram a buf) = true →
      ∃ t : State, exec (.aaiProgram a buf) s = .next t ∧ RejectedUntouched s t .invalidAddress) ∧
    (s.cfg.admits (.read a l) = true → ∃ t : State, exec (.read a l) s = .next t ∧ RejectedUntouched s t .invalidAddress)

/-- The operand checks of `aai_program` in their order: address, size, parity, each before any event (R171); within BUF_MAX where
one is configured (log 11). -/
def Obligations.AaiOperandChecksInOrder : Prop :=
  ∀ (a : Addr) (buf : List Byte) (s : State), s.phase = .idle → s.cfg.admits (.aaiProgram a buf) = true →
    (16777216 < a.toNat → ∃ t : State, exec (.aaiProgram a buf) s = .next t ∧ RejectedUntouched s t .invalidAddress) ∧
    (a.toNat ≤ 16777216 → buf.length < 2 →
      ∃ t : State, exec (.aaiProgram a buf) s = .next t ∧ RejectedUntouched s t .bufferTooSmall) ∧
    (a.toNat ≤ 16777216 → 2 ≤ buf.length → buf.length % 2 = 1 →
      ∃ t : State, exec (.aaiProgram a buf) s = .next t ∧ RejectedUntouched s t .bufferUneven)

/-- An operation without a transaction, one whose operand checks fail or `set_blocking`, leaves the work registers alone: no frame is
built, no exchange made and no chunk counted (R24, R25, R26, R171, R214). Their lives are over in IDLE; that they still hold there
what they held last is the model's choice (log 25). -/
def Obligations.OperationWithoutTransactionKeepsWorkRegisters : Prop :=
  ∀ (i : Instr) (s t : State), i.isHostOp = true → Instr.reachesTransaction i = false → exec i s = .next t →
    t.frame = s.frame ∧ t.rx = s.rx ∧ t.xres = s.xres ∧ t.idx = s.idx

/-- The idle check (R176, R211): a status response with busy = 1 after the WREN frame ends `erase_full`, `byte_program` and
`aai_program` with Busy, and no further frame is sent. -/
def Obligations.BusyChipEndsOperationBeforeItsFrame : Prop :=
  ∀ (s : State) (a : Addr) (d : Byte) (buf : List Byte) (rx1 rx2 : List Byte) (rest : List Answer), s.phase = .idle →
    a.toNat ≤ 16777216 → 2 ≤ buf.length → buf.length % 2 = 0 → rx1.length = 1 → statusResponse true rx2 →
    s.answers = configAnswers s ++ (txnAnswers rx1 ++ txnAnswers rx2) ++ rest →
    ∀ i : Instr, (i = .eraseFull ∨ i = .byteProgram a d ∨ i = .aaiProgram a buf) → s.cfg.admits i = true →
      ∃ t : State, exec i s = .next t ∧
        Finished s t (configEntries s ++ (txnEntries [0x06] rx1 ++ txnEntries [0x05, 0x00] rx2)) (.err .busy) rest

/-- The first event of an operation fails (R133, R234, R236, R237): the hold line or the write-protect line while the block is not
configured, or the first selection. The operation ends with that line's error, for every operation and operands that reach a
transaction; nothing is sent. -/
def Obligations.FirstLineFailureEndsOperation : Prop :=
  ∀ (i : Instr) (s : State) (e : Failure) (rest : List Answer), Instr.reachesTransaction i = true → s.cfg.admits i = true →
    s.phase = .idle →
    (s.configured = false → s.answers = .fail e :: rest →
      ∃ t : State, exec i s = .next t ∧ t.phase = .idle ∧ t.configured = false ∧ t.answers = rest ∧
        t.results = s.results ++ [⟨.err (.holdLineFailure e.line), false, s.blocking⟩] ∧
        t.trace = s.trace ++ [.lineSet .hold .high (some e.line)] ∧ t.hold = .x ∧ t.wp = s.wp ∧ t.ce = s.ce) ∧
    (∀ rx : List Byte, s.configured = false → s.answers = .ok rx :: .fail e :: rest →
      ∃ t : State, exec i s = .next t ∧ t.phase = .idle ∧ t.configured = false ∧ t.answers = rest ∧
        t.results = s.results ++ [⟨.err (.writeProtectLineFailure e.line), false, s.blocking⟩] ∧
        t.trace = s.trace ++ [.lineSet .hold .high none, .lineSet .wp .low (some e.line)] ∧
        t.hold = .high ∧ t.wp = .x ∧ t.ce = s.ce) ∧
    (s.answers = configAnswers s ++ [.fail e] ++ rest →
      ∃ t : State, exec i s = .next t ∧
        Ended s t (configEntries s ++ [.lineSet .ce .low (some e.line)]) (.err (.enableLineFailure e.line)) .x rest)

/-- A poll that fails ends a blocking `byte_program` with the poll's error, in each of the four ways a transaction can fail and
through any number of busy polls before it (R210, R236). -/
def Obligations.FailedPollEndsByteProgram : Prop :=
  ∀ (a : Addr) (d : Byte) (s : State) (rx1 rx2 rx3 : List Byte) (busy : List (List Byte)) (f : TxnFailure)
    (rest : List Answer),
    s.phase = .idle → s.blocking = true → a.toNat ≤ 16777216 → rx1.length = 1 → statusResponse false rx2 →
    rx3.length = 5 → (∀ rx ∈ busy, statusResponse true rx) → f.fits [0x05, 0x00] = true →
    s.answers = configAnswers s ++ (txnAnswers rx1 ++ txnAnswers rx2 ++ txnAnswers rx3 ++ pollAnswers busy ++
      f.answers) ++ rest →
    ∃ t : State, exec (.byteProgram a d) s = .next t ∧
      Ended s t (configEntries s ++ (txnEntries [0x06] rx1 ++ txnEntries [0x05, 0x00] rx2 ++
        txnEntries (0x02 :: (addrField (wireAddress s.cfg a) ++ [d])) rx3 ++ pollEntries busy ++
        f.entries [0x05, 0x00])) (.err f.error) f.ce rest

/-- A poll that fails ends `erase_full` and `aai_program` with the poll's error, in each of the four ways a transaction can fail,
through any number of busy polls before it, and after any chunk, in both modes; no WRDI follows (R174, R210, R236). -/
def Obligations.FailedPollEndsEraseAndAai : Prop :=
  (∀ (s : State) (rx1 rx2 rx3 : List Byte) (busy : List (List Byte)) (f : TxnFailure) (rest : List Answer),
    s.phase = .idle → rx1.length = 1 → statusResponse false rx2 → rx3.length = 1 →
    (∀ rx ∈ busy, statusResponse true rx) → f.fits [0x05, 0x00] = true →
    s.answers = configAnswers s ++ (txnAnswers rx1 ++ txnAnswers rx2 ++ txnAnswers rx3 ++ pollAnswers busy ++
      f.answers) ++ rest →
    ∃ t : State, exec .eraseFull s = .next t ∧
      Ended s t (configEntries s ++ (txnEntries [0x06] rx1 ++ txnEntries [0x05, 0x00] rx2 ++ txnEntries [0x60] rx3 ++
        pollEntries busy ++ f.entries [0x05, 0x00])) (.err f.error) f.ce rest) ∧
  (∀ (a : Addr) (buf : List Byte) (s : State) (rx1 rx2 rx3 : List Byte) (runs : List ChunkRun) (busy : List (List Byte))
    (f : TxnFailure) (rest : List Answer),
    s.phase = .idle → s.cfg.admits (.aaiProgram a buf) = true → a.toNat ≤ 16777216 → 2 ≤ buf.length → buf.length % 2 = 0 →
    rx1.length = 1 → statusResponse false rx2 → runs.length < buf.length / 2 → aaiRunsFit s.cfg a buf runs →
    rx3.length = (aaiChunkFrame s.cfg a buf runs.length).length → (∀ rx ∈ busy, statusResponse true rx) →
    f.fits [0x05, 0x00] = true →
    s.answers = configAnswers s ++ (txnAnswers rx1 ++ txnAnswers rx2 ++ runs.flatMap ChunkRun.answers ++ txnAnswers rx3 ++
      pollAnswers busy ++ f.answers) ++ rest →
    ∃ t : State, exec (.aaiProgram a buf) s = .next t ∧
      Ended s t (configEntries s ++ (txnEntries [0x06] rx1 ++ txnEntries [0x05, 0x00] rx2 ++
        aaiChunkEntries s.cfg a buf runs ++ txnEntries (aaiChunkFrame s.cfg a buf runs.length) rx3 ++ pollEntries busy ++
        f.entries [0x05, 0x00])) (.err f.error) f.ce rest)

/-- A chunk of `aai_program` that fails, the first or any later one and in each of the four ways a transaction can fail, ends the
operation with its error: the chunks before it stay sent, and no WRDI follows; and so does a failure of the closing WRDI, which
is not sent again (R174). -/
def Obligations.FailedChunkSendsNoWriteDisable : Prop :=
  ∀ (a : Addr) (buf : List Byte) (s : State) (rx1 rx2 : List Byte) (runs : List ChunkRun) (f : TxnFailure)
    (rest : List Answer),
    s.phase = .idle → s.cfg.admits (.aaiProgram a buf) = true → a.toNat ≤ 16777216 → 2 ≤ buf.length → buf.length % 2 = 0 →
    rx1.length = 1 → statusResponse false rx2 → aaiRunsFit s.cfg a buf runs →
    s.answers = configAnswers s ++ (txnAnswers rx1 ++ txnAnswers rx2 ++ runs.flatMap ChunkRun.answers ++ f.answers) ++ rest →
    (runs.length < buf.length / 2 → f.fits (aaiChunkFrame s.cfg a buf runs.length) = true →
      ∃ t : State, exec (.aaiProgram a buf) s = .next t ∧
        Ended s t (configEntries s ++ (txnEntries [0x06] rx1 ++ txnEntries [0x05, 0x00] rx2 ++
          aaiChunkEntries s.cfg a buf runs ++ f.entries (aaiChunkFrame s.cfg a buf runs.length))) (.err f.error) f.ce rest) ∧
    (runs.length = buf.length / 2 → f.fits [0x04] = true →
      ∃ t : State, exec (.aaiProgram a buf) s = .next t ∧
        Ended s t (configEntries s ++ (txnEntries [0x06] rx1 ++ txnEntries [0x05, 0x00] rx2 ++
          aaiChunkEntries s.cfg a buf runs ++ f.entries [0x04])) (.err f.error) f.ce rest)

/-! ### Waiting -/

/-- The hang (R212, R276): however many polls are answered busy, the operation has reported no result and stands before the next
poll. So for `erase_full`, for a blocking `byte_program`, and for `aai_program` after its first chunk and after every later one.
There is no poll limit. -/
def Obligations.WaitHasNoBound : Prop :=
  ∀ (s : State) (a : Addr) (d : Byte) (buf : List Byte) (rx1 rx2 rx3 : List Byte) (busy : List (List Byte)), s.phase = .idle →
    rx1.length = 1 → statusResponse false rx2 → (∀ rx ∈ busy, statusResponse true rx) →
    (rx3.length = 1 →
      s.answers = configAnswers s ++ (txnAnswers rx1 ++ txnAnswers rx2 ++ txnAnswers rx3 ++ pollAnswers busy) →
      ∃ t : State, exec .eraseFull s = .next t ∧ t.phase = .ceLow ∧ t.frame = [0x05, 0x00] ∧
        t.results = s.results ∧ t.trace = s.trace ++ (configEntries s ++ (txnEntries [0x06] rx1 ++
          txnEntries [0x05, 0x00] rx2 ++ txnEntries [0x60] rx3 ++ pollEntries busy))) ∧
    (rx3.length = 5 → s.blocking = true → a.toNat ≤ 16777216 →
      s.answers = configAnswers s ++ (txnAnswers rx1 ++ txnAnswers rx2 ++ txnAnswers rx3 ++ pollAnswers busy) →
      ∃ t : State, exec (.byteProgram a d) s = .next t ∧ t.phase = .ceLow ∧ t.frame = [0x05, 0x00] ∧
        t.results = s.results ∧ t.trace = s.trace ++ (configEntries s ++ (txnEntries [0x06] rx1 ++
          txnEntries [0x05, 0x00] rx2 ++ txnEntries (0x02 :: (addrField (wireAddress s.cfg a) ++ [d])) rx3 ++
          pollEntries busy))) ∧
    (∀ runs : List ChunkRun, s.cfg.admits (.aaiProgram a buf) = true → a.toNat ≤ 16777216 → 2 ≤ buf.length →
      buf.length % 2 = 0 → runs.length < buf.length / 2 → aaiRunsFit s.cfg a buf runs →
      rx3.length = (aaiChunkFrame s.cfg a buf runs.length).length →
      s.answers = configAnswers s ++ (txnAnswers rx1 ++ txnAnswers rx2 ++ runs.flatMap ChunkRun.answers ++ txnAnswers rx3 ++
        pollAnswers busy) →
      ∃ t : State, exec (.aaiProgram a buf) s = .next t ∧ t.phase = .ceLow ∧ t.frame = [0x05, 0x00] ∧
        t.results = s.results ∧ t.trace = s.trace ++ (configEntries s ++ (txnEntries [0x06] rx1 ++
          txnEntries [0x05, 0x00] rx2 ++ aaiChunkEntries s.cfg a buf runs ++
          txnEntries (aaiChunkFrame s.cfg a buf runs.length) rx3 ++ pollEntries busy)))

/-- The `blocking` flag changes the events and the result of `byte_program` alone (R191, R213, R215): every other operation but
the flag's own write runs alike under both values. -/
def Obligations.BlockingSteersByteProgramOnly : Prop :=
  ∀ (i : Instr) (s t : State) (b : Bool), i.isHostOp = true → (∀ a d, i ≠ .byteProgram a d) → (∀ v, i ≠ .setBlocking v) →
    exec i s = .next t →
    ∃ t' : State, exec i { s with blocking := b } = .next t' ∧ t'.blocking = b ∧ t'.trace = t.trace ∧ t'.phase = t.phase ∧
      t'.result = t.result ∧ t'.configured = t.configured ∧ t'.answers = t.answers ∧ t'.ce = t.ce ∧ t'.wp = t.wp ∧
      t'.hold = t.hold

/-- The error values of the transport and the lines are copied and never inspected (R142, D27): renaming them by any functions, ones
that identify values included, in the state and in the fixed answers renames them in the outcome and changes nothing else. Their
types E_BUS and E_LINE are uninterpreted (log 4). -/
def Obligations.PayloadsAreNeverInspected : Prop :=
  ∀ (f : BusError → BusError) (g : LineError → LineError) (i : Instr) (s t : State), i.isHostOp = true →
    fullResponses i s.answers → exec i s = .next t → exec i (s.rename f g) = .next (t.rename f g)

/-! ### The whole machine -/

/-- What no step does (R20, R21, R60, R243): undo an event or a result, clear `configured`, change the configuration, or change
`blocking` but for a `set_blocking` request accepted or in progress. -/
def Obligations.StepOnlyExtends : Prop :=
  ∀ s t : State, step s = .next t →
    s.trace <+: t.trace ∧ s.results <+: t.results ∧ (s.configured = true → t.configured = true) ∧ t.cfg = s.cfg ∧
    (t.blocking ≠ s.blocking →
      (s.phase = .validate ∧ s.op = .setBlocking) ∨
      (s.phase = .idle ∧ ∃ (r : Request) (rest : List Request) (b : Bool), s.program = r :: rest ∧
        decodeRequest r = .ok (.setBlocking b)))

/-- Once `configured` is 1 the static lines are never commanded again, so no operation can fail on them (R131, R139, R234,
R237). -/
def Obligations.ConfiguredLinesAreLeftAlone : Prop :=
  ∀ s t : State, Inv s → s.configured = true → step s = .next t →
    ∃ new : List Entry, t.trace = s.trace ++ new ∧ t.hold = s.hold ∧ t.wp = s.wp ∧
      ∀ e ∈ new, ∀ (v : Drive) (r : Option LineError), e ≠ .lineSet .hold v r ∧ e ≠ .lineSet .wp v r

/-- The state after reset meets the invariant. -/
def Obligations.ResetMeetsInvariant : Prop := Inv State.reset

/-- Every step keeps the invariant, whatever the environment answers: PHASE and `configured` agree (R27), `configured` says
whether both configuration writes have succeeded (R34), the line levels are those of R130, R132 and R141, only legal frames are
sent (R97), every window is released and nothing else is commanded (R134, R139, R140), and only errors of the operation are
presented (R231). -/
def Obligations.EveryStepKeepsInvariant : Prop :=
  ∀ s t : State, Inv s → step s = .next t → Inv t

/-- A step reports at most one result, and an error only of a kind the error matrix gives the operation (R231). -/
def Obligations.ResultsObeyErrorMatrix : Prop :=
  ∀ s t : State, Inv s → step s = .next t →
    t.results = s.results ∨
      ∃ r : Report, t.results = s.results ++ [r] ∧ ∀ k : OpError, r.result = .err k → mayRaise t.op k = true

/-- An accepted operation is never stopped (R28, R250): the only requests without a transition are those with a reserved code or
with L = 0, and those above a configured bound (log 11; the decided configuration has none). -/
def Obligations.OnlyIllegalRequestsStop : Prop :=
  ∀ s : State, Inv s →
    (∃ t : State, step s = .next t) ∨
      (s.phase = .idle ∧ ∃ (r : Request) (rest : List Request), s.program = r :: rest ∧
        (0x9 ≤ r.op.toNat ∨ (r.op = 0x7 ∧ r.rlen = 0) ∨
          ∃ i : Instr, decodeRequest r = .ok i ∧ s.cfg.admits i = false))

/-- The two forms of R27 agree: every host operation, run by the phase machine over the answers fixed in advance, makes the same
event trace, result and final state as its pseudocode (R130 to R138, R150 to R153, R170 to R172, R190, R193, R210, R211). -/
def Obligations.PhaseMachineAgreesWithPseudocode : Prop :=
  ∀ (i : Instr) (s : State) (r : Pseudo.Run OpValue), s.phase = .idle → i.wf = true → s.cfg.admits i = true →
    Pseudo.operation i (Pseudo.worldOf s) = some r → Agrees s r (exec i s)
end

