-- ==== Sys2Proof/Laws/State.lean ====
section
/-!
SUPPORT. One lemma per field per update of the state, so that no proof unfolds a record update.
-/

namespace Sys2Proof.Machine

/-! ### `State.record` -/

@[simp] theorem State.record_configured (e : Entry) (s : State) : (s.record e).configured = s.configured := rfl
@[simp] theorem State.record_blocking (e : Entry) (s : State) : (s.record e).blocking = s.blocking := rfl
@[simp] theorem State.record_op (e : Entry) (s : State) : (s.record e).op = s.op := rfl
@[simp] theorem State.record_addr (e : Entry) (s : State) : (s.record e).addr = s.addr := rfl
@[simp] theorem State.record_data (e : Entry) (s : State) : (s.record e).data = s.data := rfl
@[simp] theorem State.record_statIn (e : Entry) (s : State) : (s.record e).statIn = s.statIn := rfl
@[simp] theorem State.record_buf (e : Entry) (s : State) : (s.record e).buf = s.buf := rfl
@[simp] theorem State.record_rlen (e : Entry) (s : State) : (s.record e).rlen = s.rlen := rfl
@[simp] theorem State.record_bIn (e : Entry) (s : State) : (s.record e).bIn = s.bIn := rfl
@[simp] theorem State.record_frame (e : Entry) (s : State) : (s.record e).frame = s.frame := rfl
@[simp] theorem State.record_rx (e : Entry) (s : State) : (s.record e).rx = s.rx := rfl
@[simp] theorem State.record_xres (e : Entry) (s : State) : (s.record e).xres = s.xres := rfl
@[simp] theorem State.record_idx (e : Entry) (s : State) : (s.record e).idx = s.idx := rfl
@[simp] theorem State.record_phase (e : Entry) (s : State) : (s.record e).phase = s.phase := rfl
@[simp] theorem State.record_stage (e : Entry) (s : State) : (s.record e).stage = s.stage := rfl
@[simp] theorem State.record_ce (e : Entry) (s : State) : (s.record e).ce = s.ce := rfl
@[simp] theorem State.record_wp (e : Entry) (s : State) : (s.record e).wp = s.wp := rfl
@[simp] theorem State.record_hold (e : Entry) (s : State) : (s.record e).hold = s.hold := rfl
@[simp] theorem State.record_result (e : Entry) (s : State) : (s.record e).result = s.result := rfl
@[simp] theorem State.record_results (e : Entry) (s : State) : (s.record e).results = s.results := rfl
@[simp] theorem State.record_program (e : Entry) (s : State) : (s.record e).program = s.program := rfl
@[simp] theorem State.record_answers (e : Entry) (s : State) : (s.record e).answers = s.answers := rfl
@[simp] theorem State.record_cfg (e : Entry) (s : State) : (s.record e).cfg = s.cfg := rfl
@[simp] theorem State.record_trace (e : Entry) (s : State) : (s.record e).trace = s.trace ++ [e] := rfl

/-! ### `State.setLevel` -/

@[simp] theorem State.setLevel_configured (l : Line) (v : Level) (s : State) : (s.setLevel l v).configured = s.configured := by cases l <;> rfl
@[simp] theorem State.setLevel_blocking (l : Line) (v : Level) (s : State) : (s.setLevel l v).blocking = s.blocking := by cases l <;> rfl
@[simp] theorem State.setLevel_op (l : Line) (v : Level) (s : State) : (s.setLevel l v).op = s.op := by cases l <;> rfl
@[simp] theorem State.setLevel_addr (l : Line) (v : Level) (s : State) : (s.setLevel l v).addr = s.addr := by cases l <;> rfl
@[simp] theorem State.setLevel_data (l : Line) (v : Level) (s : State) : (s.setLevel l v).data = s.data := by cases l <;> rfl
@[simp] theorem State.setLevel_statIn (l : Line) (v : Level) (s : State) : (s.setLevel l v).statIn = s.statIn := by cases l <;> rfl
@[simp] theorem State.setLevel_buf (l : Line) (v : Level) (s : State) : (s.setLevel l v).buf = s.buf := by cases l <;> rfl
@[simp] theorem State.setLevel_rlen (l : Line) (v : Level) (s : State) : (s.setLevel l v).rlen = s.rlen := by cases l <;> rfl
@[simp] theorem State.setLevel_bIn (l : Line) (v : Level) (s : State) : (s.setLevel l v).bIn = s.bIn := by cases l <;> rfl
@[simp] theorem State.setLevel_frame (l : Line) (v : Level) (s : State) : (s.setLevel l v).frame = s.frame := by cases l <;> rfl
@[simp] theorem State.setLevel_rx (l : Line) (v : Level) (s : State) : (s.setLevel l v).rx = s.rx := by cases l <;> rfl
@[simp] theorem State.setLevel_xres (l : Line) (v : Level) (s : State) : (s.setLevel l v).xres = s.xres := by cases l <;> rfl
@[simp] theorem State.setLevel_idx (l : Line) (v : Level) (s : State) : (s.setLevel l v).idx = s.idx := by cases l <;> rfl
@[simp] theorem State.setLevel_phase (l : Line) (v : Level) (s : State) : (s.setLevel l v).phase = s.phase := by cases l <;> rfl
@[simp] theorem State.setLevel_stage (l : Line) (v : Level) (s : State) : (s.setLevel l v).stage = s.stage := by cases l <;> rfl
@[simp] theorem State.setLevel_result (l : Line) (v : Level) (s : State) : (s.setLevel l v).result = s.result := by cases l <;> rfl
@[simp] theorem State.setLevel_results (l : Line) (v : Level) (s : State) : (s.setLevel l v).results = s.results := by cases l <;> rfl
@[simp] theorem State.setLevel_trace (l : Line) (v : Level) (s : State) : (s.setLevel l v).trace = s.trace := by cases l <;> rfl
@[simp] theorem State.setLevel_program (l : Line) (v : Level) (s : State) : (s.setLevel l v).program = s.program := by cases l <;> rfl
@[simp] theorem State.setLevel_answers (l : Line) (v : Level) (s : State) : (s.setLevel l v).answers = s.answers := by cases l <;> rfl
@[simp] theorem State.setLevel_cfg (l : Line) (v : Level) (s : State) : (s.setLevel l v).cfg = s.cfg := by cases l <;> rfl
@[simp] theorem State.setLevel_ce_ce (v : Level) (s : State) : (s.setLevel .ce v).ce = v := rfl
@[simp] theorem State.setLevel_ce_wp (v : Level) (s : State) : (s.setLevel .ce v).wp = s.wp := rfl
@[simp] theorem State.setLevel_ce_hold (v : Level) (s : State) : (s.setLevel .ce v).hold = s.hold := rfl
@[simp] theorem State.setLevel_wp_ce (v : Level) (s : State) : (s.setLevel .wp v).ce = s.ce := rfl
@[simp] theorem State.setLevel_wp_wp (v : Level) (s : State) : (s.setLevel .wp v).wp = v := rfl
@[simp] theorem State.setLevel_wp_hold (v : Level) (s : State) : (s.setLevel .wp v).hold = s.hold := rfl
@[simp] theorem State.setLevel_hold_ce (v : Level) (s : State) : (s.setLevel .hold v).ce = s.ce := rfl
@[simp] theorem State.setLevel_hold_wp (v : Level) (s : State) : (s.setLevel .hold v).wp = s.wp := rfl
@[simp] theorem State.setLevel_hold_hold (v : Level) (s : State) : (s.setLevel .hold v).hold = v := rfl

/-! ### `State.raise` -/

@[simp] theorem State.raise_configured (k : OpError) (s : State) : (s.raise k).configured = s.configured := rfl
@[simp] theorem State.raise_blocking (k : OpError) (s : State) : (s.raise k).blocking = s.blocking := rfl
@[simp] theorem State.raise_op (k : OpError) (s : State) : (s.raise k).op = s.op := rfl
@[simp] theorem State.raise_addr (k : OpError) (s : State) : (s.raise k).addr = s.addr := rfl
@[simp] theorem State.raise_data (k : OpError) (s : State) : (s.raise k).data = s.data := rfl
@[simp] theorem State.raise_statIn (k : OpError) (s : State) : (s.raise k).statIn = s.statIn := rfl
@[simp] theorem State.raise_buf (k : OpError) (s : State) : (s.raise k).buf = s.buf := rfl
@[simp] theorem State.raise_rlen (k : OpError) (s : State) : (s.raise k).rlen = s.rlen := rfl
@[simp] theorem State.raise_bIn (k : OpError) (s : State) : (s.raise k).bIn = s.bIn := rfl
@[simp] theorem State.raise_frame (k : OpError) (s : State) : (s.raise k).frame = s.frame := rfl
@[simp] theorem State.raise_rx (k : OpError) (s : State) : (s.raise k).rx = s.rx := rfl
@[simp] theorem State.raise_xres (k : OpError) (s : State) : (s.raise k).xres = s.xres := rfl
@[simp] theorem State.raise_idx (k : OpError) (s : State) : (s.raise k).idx = s.idx := rfl
@[simp] theorem State.raise_stage (k : OpError) (s : State) : (s.raise k).stage = s.stage := rfl
@[simp] theorem State.raise_ce (k : OpError) (s : State) : (s.raise k).ce = s.ce := rfl
@[simp] theorem State.raise_wp (k : OpError) (s : State) : (s.raise k).wp = s.wp := rfl
@[simp] theorem State.raise_hold (k : OpError) (s : State) : (s.raise k).hold = s.hold := rfl
@[simp] theorem State.raise_results (k : OpError) (s : State) : (s.raise k).results = s.results := rfl
@[simp] theorem State.raise_trace (k : OpError) (s : State) : (s.raise k).trace = s.trace := rfl
@[simp] theorem State.raise_program (k : OpError) (s : State) : (s.raise k).program = s.program := rfl
@[simp] theorem State.raise_answers (k : OpError) (s : State) : (s.raise k).answers = s.answers := rfl
@[simp] theorem State.raise_cfg (k : OpError) (s : State) : (s.raise k).cfg = s.cfg := rfl
@[simp] theorem State.raise_phase (k : OpError) (s : State) : (s.raise k).phase = .respond := rfl
@[simp] theorem State.raise_result (k : OpError) (s : State) : (s.raise k).result = some (.err k) := rfl

/-! ### `State.returnOk` -/

@[simp] theorem State.returnOk_configured (v : OpValue) (s : State) : (s.returnOk v).configured = s.configured := rfl
@[simp] theorem State.returnOk_blocking (v : OpValue) (s : State) : (s.returnOk v).blocking = s.blocking := rfl
@[simp] theorem State.returnOk_op (v : OpValue) (s : State) : (s.returnOk v).op = s.op := rfl
@[simp] theorem State.returnOk_addr (v : OpValue) (s : State) : (s.returnOk v).addr = s.addr := rfl
@[simp] theorem State.returnOk_data (v : OpValue) (s : State) : (s.returnOk v).data = s.data := rfl
@[simp] theorem State.returnOk_statIn (v : OpValue) (s : State) : (s.returnOk v).statIn = s.statIn := rfl
@[simp] theorem State.returnOk_buf (v : OpValue) (s : State) : (s.returnOk v).buf = s.buf := rfl
@[simp] theorem State.returnOk_rlen (v : OpValue) (s : State) : (s.returnOk v).rlen = s.rlen := rfl
@[simp] theorem State.returnOk_bIn (v : OpValue) (s : State) : (s.returnOk v).bIn = s.bIn := rfl
@[simp] theorem State.returnOk_frame (v : OpValue) (s : State) : (s.returnOk v).frame = s.frame := rfl
@[simp] theorem State.returnOk_rx (v : OpValue) (s : State) : (s.returnOk v).rx = s.rx := rfl
@[simp] theorem State.returnOk_xres (v : OpValue) (s : State) : (s.returnOk v).xres = s.xres := rfl
@[simp] theorem State.returnOk_idx (v : OpValue) (s : State) : (s.returnOk v).idx = s.idx := rfl
@[simp] theorem State.returnOk_stage (v : OpValue) (s : State) : (s.returnOk v).stage = s.stage := rfl
@[simp] theorem State.returnOk_ce (v : OpValue) (s : State) : (s.returnOk v).ce = s.ce := rfl
@[simp] theorem State.returnOk_wp (v : OpValue) (s : State) : (s.returnOk v).wp = s.wp := rfl
@[simp] theorem State.returnOk_hold (v : OpValue) (s : State) : (s.returnOk v).hold = s.hold := rfl
@[simp] theorem State.returnOk_results (v : OpValue) (s : State) : (s.returnOk v).results = s.results := rfl
@[simp] theorem State.returnOk_trace (v : OpValue) (s : State) : (s.returnOk v).trace = s.trace := rfl
@[simp] theorem State.returnOk_program (v : OpValue) (s : State) : (s.returnOk v).program = s.program := rfl
@[simp] theorem State.returnOk_answers (v : OpValue) (s : State) : (s.returnOk v).answers = s.answers := rfl
@[simp] theorem State.returnOk_cfg (v : OpValue) (s : State) : (s.returnOk v).cfg = s.cfg := rfl
@[simp] theorem State.returnOk_phase (v : OpValue) (s : State) : (s.returnOk v).phase = .respond := rfl
@[simp] theorem State.returnOk_result (v : OpValue) (s : State) : (s.returnOk v).result = some (.ok v) := rfl

/-! ### `State.respond` -/

@[simp] theorem State.respond_configured (s : State) : (s.respond).configured = s.configured := by unfold State.respond; split <;> rfl
@[simp] theorem State.respond_blocking (s : State) : (s.respond).blocking = s.blocking := by unfold State.respond; split <;> rfl
@[simp] theorem State.respond_op (s : State) : (s.respond).op = s.op := by unfold State.respond; split <;> rfl
@[simp] theorem State.respond_addr (s : State) : (s.respond).addr = s.addr := by unfold State.respond; split <;> rfl
@[simp] theorem State.respond_data (s : State) : (s.respond).data = s.data := by unfold State.respond; split <;> rfl
@[simp] theorem State.respond_statIn (s : State) : (s.respond).statIn = s.statIn := by unfold State.respond; split <;> rfl
@[simp] theorem State.respond_buf (s : State) : (s.respond).buf = s.buf := by unfold State.respond; split <;> rfl
@[simp] theorem State.respond_rlen (s : State) : (s.respond).rlen = s.rlen := by unfold State.respond; split <;> rfl
@[simp] theorem State.respond_bIn (s : State) : (s.respond).bIn = s.bIn := by unfold State.respond; split <;> rfl
@[simp] theorem State.respond_frame (s : State) : (s.respond).frame = s.frame := by unfold State.respond; split <;> rfl
@[simp] theorem State.respond_rx (s : State) : (s.respond).rx = s.rx := by unfold State.respond; split <;> rfl
@[simp] theorem State.respond_xres (s : State) : (s.respond).xres = s.xres := by unfold State.respond; split <;> rfl
@[simp] theorem State.respond_idx (s : State) : (s.respond).idx = s.idx := by unfold State.respond; split <;> rfl
@[simp] theorem State.respond_stage (s : State) : (s.respond).stage = s.stage := by unfold State.respond; split <;> rfl
@[simp] theorem State.respond_ce (s : State) : (s.respond).ce = s.ce := by unfold State.respond; split <;> rfl
@[simp] theorem State.respond_wp (s : State) : (s.respond).wp = s.wp := by unfold State.respond; split <;> rfl
@[simp] theorem State.respond_hold (s : State) : (s.respond).hold = s.hold := by unfold State.respond; split <;> rfl
@[simp] theorem State.respond_result (s : State) : (s.respond).result = s.result := by unfold State.respond; split <;> rfl
@[simp] theorem State.respond_trace (s : State) : (s.respond).trace = s.trace := by unfold State.respond; split <;> rfl
@[simp] theorem State.respond_program (s : State) : (s.respond).program = s.program := by unfold State.respond; split <;> rfl
@[simp] theorem State.respond_answers (s : State) : (s.respond).answers = s.answers := by unfold State.respond; split <;> rfl
@[simp] theorem State.respond_cfg (s : State) : (s.respond).cfg = s.cfg := by unfold State.respond; split <;> rfl
@[simp] theorem State.respond_phase (s : State) : s.respond.phase = .idle := by unfold State.respond; split <;> rfl

theorem State.respond_results (r : OpResult) (s : State) (h : s.result = some r) :
    s.respond.results = s.results ++ [⟨r, s.configured, s.blocking⟩] := by
  unfold State.respond; rw [h]

/-! ### `State.openWindow` -/

@[simp] theorem State.openWindow_configured (f : List Byte) (s : State) : (s.openWindow f).configured = s.configured := rfl
@[simp] theorem State.openWindow_blocking (f : List Byte) (s : State) : (s.openWindow f).blocking = s.blocking := rfl
@[simp] theorem State.openWindow_op (f : List Byte) (s : State) : (s.openWindow f).op = s.op := rfl
@[simp] theorem State.openWindow_addr (f : List Byte) (s : State) : (s.openWindow f).addr = s.addr := rfl
@[simp] theorem State.openWindow_data (f : List Byte) (s : State) : (s.openWindow f).data = s.data := rfl
@[simp] theorem State.openWindow_statIn (f : List Byte) (s : State) : (s.openWindow f).statIn = s.statIn := rfl
@[simp] theorem State.openWindow_buf (f : List Byte) (s : State) : (s.openWindow f).buf = s.buf := rfl
@[simp] theorem State.openWindow_rlen (f : List Byte) (s : State) : (s.openWindow f).rlen = s.rlen := rfl
@[simp] theorem State.openWindow_bIn (f : List Byte) (s : State) : (s.openWindow f).bIn = s.bIn := rfl
@[simp] theorem State.openWindow_rx (f : List Byte) (s : State) : (s.openWindow f).rx = s.rx := rfl
@[simp] theorem State.openWindow_xres (f : List Byte) (s : State) : (s.openWindow f).xres = s.xres := rfl
@[simp] theorem State.openWindow_idx (f : List Byte) (s : State) : (s.openWindow f).idx = s.idx := rfl
@[simp] theorem State.openWindow_stage (f : List Byte) (s : State) : (s.openWindow f).stage = s.stage := rfl
@[simp] theorem State.openWindow_ce (f : List Byte) (s : State) : (s.openWindow f).ce = s.ce := rfl
@[simp] theorem State.openWindow_wp (f : List Byte) (s : State) : (s.openWindow f).wp = s.wp := rfl
@[simp] theorem State.openWindow_hold (f : List Byte) (s : State) : (s.openWindow f).hold = s.hold := rfl
@[simp] theorem State.openWindow_result (f : List Byte) (s : State) : (s.openWindow f).result = s.result := rfl
@[simp] theorem State.openWindow_results (f : List Byte) (s : State) : (s.openWindow f).results = s.results := rfl
@[simp] theorem State.openWindow_trace (f : List Byte) (s : State) : (s.openWindow f).trace = s.trace := rfl
@[simp] theorem State.openWindow_program (f : List Byte) (s : State) : (s.openWindow f).program = s.program := rfl
@[simp] theorem State.openWindow_answers (f : List Byte) (s : State) : (s.openWindow f).answers = s.answers := rfl
@[simp] theorem State.openWindow_cfg (f : List Byte) (s : State) : (s.openWindow f).cfg = s.cfg := rfl
@[simp] theorem State.openWindow_phase (f : List Byte) (s : State) : (s.openWindow f).phase = windowStart s.configured := rfl
@[simp] theorem State.openWindow_frame (f : List Byte) (s : State) : (s.openWindow f).frame = f := rfl

/-! ### `State.beginTxn` -/

@[simp] theorem State.beginTxn_configured (g : Stage) (f : List Byte) (s : State) : (s.beginTxn g f).configured = s.configured := rfl
@[simp] theorem State.beginTxn_blocking (g : Stage) (f : List Byte) (s : State) : (s.beginTxn g f).blocking = s.blocking := rfl
@[simp] theorem State.beginTxn_op (g : Stage) (f : List Byte) (s : State) : (s.beginTxn g f).op = s.op := rfl
@[simp] theorem State.beginTxn_addr (g : Stage) (f : List Byte) (s : State) : (s.beginTxn g f).addr = s.addr := rfl
@[simp] theorem State.beginTxn_data (g : Stage) (f : List Byte) (s : State) : (s.beginTxn g f).data = s.data := rfl
@[simp] theorem State.beginTxn_statIn (g : Stage) (f : List Byte) (s : State) : (s.beginTxn g f).statIn = s.statIn := rfl
@[simp] theorem State.beginTxn_buf (g : Stage) (f : List Byte) (s : State) : (s.beginTxn g f).buf = s.buf := rfl
@[simp] theorem State.beginTxn_rlen (g : Stage) (f : List Byte) (s : State) : (s.beginTxn g f).rlen = s.rlen := rfl
@[simp] theorem State.beginTxn_bIn (g : Stage) (f : List Byte) (s : State) : (s.beginTxn g f).bIn = s.bIn := rfl
@[simp] theorem State.beginTxn_rx (g : Stage) (f : List Byte) (s : State) : (s.beginTxn g f).rx = s.rx := rfl
@[simp] theorem State.beginTxn_xres (g : Stage) (f : List Byte) (s : State) : (s.beginTxn g f).xres = s.xres := rfl
@[simp] theorem State.beginTxn_idx (g : Stage) (f : List Byte) (s : State) : (s.beginTxn g f).idx = s.idx := rfl
@[simp] theorem State.beginTxn_ce (g : Stage) (f : List Byte) (s : State) : (s.beginTxn g f).ce = s.ce := rfl
@[simp] theorem State.beginTxn_wp (g : Stage) (f : List Byte) (s : State) : (s.beginTxn g f).wp = s.wp := rfl
@[simp] theorem State.beginTxn_hold (g : Stage) (f : List Byte) (s : State) : (s.beginTxn g f).hold = s.hold := rfl
@[simp] theorem State.beginTxn_result (g : Stage) (f : List Byte) (s : State) : (s.beginTxn g f).result = s.result := rfl
@[simp] theorem State.beginTxn_results (g : Stage) (f : List Byte) (s : State) : (s.beginTxn g f).results = s.results := rfl
@[simp] theorem State.beginTxn_trace (g : Stage) (f : List Byte) (s : State) : (s.beginTxn g f).trace = s.trace := rfl
@[simp] theorem State.beginTxn_program (g : Stage) (f : List Byte) (s : State) : (s.beginTxn g f).program = s.program := rfl
@[simp] theorem State.beginTxn_answers (g : Stage) (f : List Byte) (s : State) : (s.beginTxn g f).answers = s.answers := rfl
@[simp] theorem State.beginTxn_cfg (g : Stage) (f : List Byte) (s : State) : (s.beginTxn g f).cfg = s.cfg := rfl
@[simp] theorem State.beginTxn_phase (g : Stage) (f : List Byte) (s : State) : (s.beginTxn g f).phase = windowStart s.configured := rfl
@[simp] theorem State.beginTxn_frame (g : Stage) (f : List Byte) (s : State) : (s.beginTxn g f).frame = f := rfl
@[simp] theorem State.beginTxn_stage (g : Stage) (f : List Byte) (s : State) : (s.beginTxn g f).stage = g := rfl

end Sys2Proof.Machine
end

