-- ==== Sys2Proof/Laws/Ops.lean ====
section
/-!
SUPPORT. What the shared operations can do, said once: the two port events, the phases of a transaction, the sequencer. A proof
about an instruction cites these and unfolds none of them.
-/

namespace Sys2Proof.Machine

/-! ### Port events -/

theorem fitResponse_length (trace : List Entry) (n : Nat) (rx : List Byte) :
    (fitResponse trace n rx).length = n := by
  simp [fitResponse]

/-- An answer with as many bytes as sent is the response, byte for byte. -/
theorem fitResponse_eq (trace : List Entry) (rx : List Byte) : fitResponse trace rx.length rx = rx := by
  apply List.ext_getElem
  · simp [fitResponse]
  · intro i h1 h2
    simp [fitResponse, List.getElem?_eq_getElem h2]

/-- Whatever the environment answers, a line command takes the first fixed answer, records itself, and sets its line to the
commanded level, or to X when it failed (R29). -/
theorem lineSet_spec (l : Line) (v : Drive) (s : State) :
    ∃ r : Option LineError, lineSet l v s =
      (r, (({ s with answers := s.answers.tail } : State).setLevel l (if r = none then Drive.level v else .x)).record
        (.lineSet l v r)) := by
  unfold lineSet answerTo
  cases hs : s.answers with
  | nil =>
    have hself : ({ s with answers := ([] : List Answer).tail } : State) = s := by rw [List.tail_nil, ← hs]
    rw [hself]
    cases Config.envAnswer s.trace (.lineSet l v) with
    | ok rx => exact ⟨none, by simp⟩
    | fail c => exact ⟨some c.line, by simp⟩
  | cons a rest =>
    cases a with
    | ok rx => exact ⟨none, by simp⟩
    | fail c => exact ⟨some c.line, by simp⟩

theorem lineSet_ok {s : State} {rx : List Byte} {rest : List Answer} (h : s.answers = .ok rx :: rest) (l : Line)
    (v : Drive) :
    lineSet l v s =
      (none, (({ s with answers := rest } : State).setLevel l (Drive.level v)).record (.lineSet l v none)) := by
  unfold lineSet answerTo; rw [h]

theorem lineSet_fail {s : State} {c : Failure} {rest : List Answer} (h : s.answers = .fail c :: rest) (l : Line) (v : Drive) :
    lineSet l v s =
      (some c.line, (({ s with answers := rest } : State).setLevel l .x).record (.lineSet l v (some c.line))) := by
  unfold lineSet answerTo; rw [h]

/-- Whatever the environment answers, an exchange takes the first fixed answer and records itself, and a response has as many
bytes as were sent (R136). -/
theorem xfer_spec (tx : List Byte) (s : State) :
    ∃ r : BusReply, xfer tx s = (r, ({ s with answers := s.answers.tail } : State).record (.xfer tx r)) ∧
      ∀ rx, r = .ok rx → rx.length = tx.length := by
  unfold xfer answerTo
  cases hs : s.answers with
  | nil =>
    have hself : ({ s with answers := ([] : List Answer).tail } : State) = s := by rw [List.tail_nil, ← hs]
    rw [hself]
    cases Config.envAnswer s.trace (.xfer tx) with
    | ok rx => exact ⟨_, rfl, by intro rx' h; cases h; exact fitResponse_length ..⟩
    | fail c => exact ⟨_, rfl, by intro rx' h; cases h⟩
  | cons a rest =>
    cases a with
    | ok rx => exact ⟨_, rfl, by intro rx' h; cases h; exact fitResponse_length ..⟩
    | fail c => exact ⟨_, rfl, by intro rx' h; cases h⟩

theorem xfer_ok {s : State} {tx rx : List Byte} {rest : List Answer} (h : s.answers = .ok rx :: rest)
    (hl : rx.length = tx.length) :
    xfer tx s = (.ok rx, ({ s with answers := rest } : State).record (.xfer tx (.ok rx))) := by
  unfold xfer answerTo
  rw [h]
  simp only [← hl, fitResponse_eq]

theorem xfer_fail {s : State} {tx : List Byte} {c : Failure} {rest : List Answer} (h : s.answers = .fail c :: rest) :
    xfer tx s = (.fail c.bus, ({ s with answers := rest } : State).record (.xfer tx (.fail c.bus))) := by
  unfold xfer answerTo; rw [h]

/-! ### The sequencer -/

theorem windowStart_atEvent (c : Bool) : (windowStart c).atEvent = true := by cases c <;> rfl

/-- The phases of a transaction do not depend on the operation. -/
theorem tick_atEvent (m m' : Microprogram) {s : State} (h : s.phase.atEvent = true) : tick m s = tick m' s := by
  unfold tick
  cases hp : s.phase <;> simp_all [Phase.atEvent]

theorem settle_atEvent (m : Microprogram) {s : State} (h : s.phase.atEvent = true) : settle m s = s := by
  simp [settle, quiet, h]

theorem settle_idle (m : Microprogram) {s : State} (h : s.phase = .idle) : settle m s = s := by
  simp [settle, quiet, tick, h, Phase.atEvent]

theorem settle_respond (m : Microprogram) {s : State} (h : s.phase = .respond) : settle m s = s.respond := by
  simp [settle, quiet, tick, h, Phase.atEvent]

theorem settle_next_event (m : Microprogram) {s : State} (h : s.phase = .next) (he : (m.next s).phase.atEvent = true) :
    settle m s = m.next s := by
  have hq : quiet m s = m.next s := by simp [quiet, tick, h, Phase.atEvent]
  rw [settle, hq, quiet, if_pos he]

theorem settle_next_respond (m : Microprogram) {s : State} (h : s.phase = .next) (he : (m.next s).phase = .respond) :
    settle m s = (m.next s).respond := by
  simp [settle, quiet, tick, h, he, Phase.atEvent]

theorem settle_validate_event (m : Microprogram) {s : State} (h : s.phase = .validate)
    (he : (m.validate s).phase.atEvent = true) : settle m s = m.validate s := by
  have hq : quiet m s = m.validate s := by simp [quiet, tick, h, Phase.atEvent]
  rw [settle, hq, quiet, if_pos he]

theorem settle_validate_respond (m : Microprogram) {s : State} (h : s.phase = .validate)
    (he : (m.validate s).phase = .respond) : settle m s = (m.validate s).respond := by
  simp [settle, quiet, tick, h, he, Phase.atEvent]

@[simp] theorem advance_zero (m : Microprogram) (s : State) : advance m 0 s = s := rfl

theorem advance_event (m : Microprogram) (n : Nat) {s : State} (h : s.phase.atEvent = true) :
    advance m (n + 1) s = advance m n (settle m (tick m s)) := by
  simp [advance, h]

/-- Once the operation is over nothing more happens. -/
theorem advance_rest (m : Microprogram) (n : Nat) {s : State} (h : s.phase.atEvent = false) : advance m n s = s := by
  cases n <;> simp [advance, h]

theorem runWindow_event (n : Nat) {s : State} (h : s.phase.atEvent = true) (m : Microprogram) :
    runWindow (n + 1) s = runWindow n (tick m s) := by
  simp only [runWindow, h, if_true]
  rw [tick_atEvent ⟨id, id⟩ m h]

theorem runWindow_rest (n : Nat) {s : State} (h : s.phase.atEvent = false) : runWindow n s = s := by
  cases n <;> simp [runWindow, h]

/-- What a request that is accepted does: latch, check, run through the fixed answers. -/
theorem accept_idle (m : Microprogram) (load : State → State) {s : State} (h : s.phase = .idle) :
    accept m load s = .next (advance m (settle m { load s with phase := .validate }).answers.length
      (settle m { load s with phase := .validate })) := by
  simp [accept, h]

theorem accept_busy (m : Microprogram) (load : State → State) {s : State} (h : s.phase ≠ .idle) :
    accept m load s = .refused .notIdle := by
  simp [accept, h]

theorem acceptWithin_admitted (m : Microprogram) (load : State → State) (s : State) :
    acceptWithin true m load s = accept m load s := by
  simp [acceptWithin]

theorem acceptWithin_busy (b : Bool) (m : Microprogram) (load : State → State) {s : State} (h : s.phase ≠ .idle) :
    acceptWithin b m load s = .refused .notIdle := by
  simp [acceptWithin, h, accept_busy m load h]

theorem acceptWithin_above (m : Microprogram) (load : State → State) {s : State} (h : s.phase = .idle) :
    acceptWithin false m load s = .refused .aboveBound := by
  simp [acceptWithin, h]

/-- Whatever the bound, a next state is that of an accepted request. -/
theorem acceptWithin_next {b : Bool} {m : Microprogram} {load : State → State} {s t : State}
    (h : acceptWithin b m load s = .next t) : accept m load s = .next t := by
  unfold acceptWithin at h
  split at h
  · cases h
  · exact h

/-! ### The phases of a transaction, one event each -/

theorem tick_cfgHold_ok (m : Microprogram) {s : State} {rx : List Byte} {rest : List Answer} (h : s.phase = .cfgHold)
    (ha : s.answers = .ok rx :: rest) :
    tick m s = { s with
      hold := .high, phase := .cfgWp, answers := rest, trace := s.trace ++ [.lineSet .hold .high none] } := by
  simp [tick, h, cfgHoldPhase, lineSet_ok ha, State.setLevel, State.record, Drive.level]

theorem tick_cfgHold_fail (m : Microprogram) {s : State} {c : Failure} {rest : List Answer} (h : s.phase = .cfgHold)
    (ha : s.answers = .fail c :: rest) :
    tick m s = { s with
      hold := .x, phase := .respond, result := some (.err (.holdLineFailure c.line)), answers := rest
      trace := s.trace ++ [.lineSet .hold .high (some c.line)] } := by
  simp [tick, h, cfgHoldPhase, lineSet_fail ha, State.setLevel, State.record, State.raise]

theorem tick_cfgWp_ok (m : Microprogram) {s : State} {rx : List Byte} {rest : List Answer} (h : s.phase = .cfgWp)
    (ha : s.answers = .ok rx :: rest) :
    tick m s = { s with
      wp := .low, configured := true, phase := .ceLow, answers := rest
      trace := s.trace ++ [.lineSet .wp .low none] } := by
  simp [tick, h, cfgWpPhase, lineSet_ok ha, State.setLevel, State.record, Drive.level]

theorem tick_cfgWp_fail (m : Microprogram) {s : State} {c : Failure} {rest : List Answer} (h : s.phase = .cfgWp)
    (ha : s.answers = .fail c :: rest) :
    tick m s = { s with
      wp := .x, phase := .respond, result := some (.err (.writeProtectLineFailure c.line)), answers := rest
      trace := s.trace ++ [.lineSet .wp .low (some c.line)] } := by
  simp [tick, h, cfgWpPhase, lineSet_fail ha, State.setLevel, State.record, State.raise]

theorem tick_ceLow_ok (m : Microprogram) {s : State} {rx : List Byte} {rest : List Answer} (h : s.phase = .ceLow)
    (ha : s.answers = .ok rx :: rest) :
    tick m s = { s with
      ce := .low, phase := .xfer, answers := rest, trace := s.trace ++ [.lineSet .ce .low none] } := by
  simp [tick, h, ceLowPhase, lineSet_ok ha, State.setLevel, State.record, Drive.level]

theorem tick_ceLow_fail (m : Microprogram) {s : State} {c : Failure} {rest : List Answer} (h : s.phase = .ceLow)
    (ha : s.answers = .fail c :: rest) :
    tick m s = { s with
      ce := .x, phase := .respond, result := some (.err (.enableLineFailure c.line)), answers := rest
      trace := s.trace ++ [.lineSet .ce .low (some c.line)] } := by
  simp [tick, h, ceLowPhase, lineSet_fail ha, State.setLevel, State.record, State.raise]

/-- The one exchange of a plain transaction, or of a joined READ. -/
theorem tick_xfer_ok (m : Microprogram) {s : State} {rx : List Byte} {rest : List Answer} (h : s.phase = .xfer)
    (ha : s.answers = .ok rx :: rest) (hl : rx.length = s.frame.length) (hd : dataExchangeFollows s = false) :
    tick m s = { s with
      rx := rx, xres := .ok, phase := .ceHigh, answers := rest, trace := s.trace ++ [.xfer s.frame (.ok rx)] } := by
  simp [tick, h, xferPhase, xfer_ok ha hl, State.record, hd]

/-- The command exchange of a split READ. -/
theorem tick_xfer_ok_split (m : Microprogram) {s : State} {rx : List Byte} {rest : List Answer} (h : s.phase = .xfer)
    (ha : s.answers = .ok rx :: rest) (hl : rx.length = s.frame.length) (hd : dataExchangeFollows s = true) :
    tick m s = { s with
      rx := rx, xres := .ok, frame := zeros s.rlen, phase := .xfer2, answers := rest
      trace := s.trace ++ [.xfer s.frame (.ok rx)] } := by
  simp [tick, h, xferPhase, xfer_ok ha hl, State.record, hd]

theorem tick_xfer_fail (m : Microprogram) {s : State} {c : Failure} {rest : List Answer} (h : s.phase = .xfer)
    (ha : s.answers = .fail c :: rest) :
    tick m s = { s with
      xres := .fail c.bus, phase := .ceHigh, answers := rest, trace := s.trace ++ [.xfer s.frame (.fail c.bus)] } := by
  simp [tick, h, xferPhase, xfer_fail ha, State.record]

theorem tick_xfer2_ok (m : Microprogram) {s : State} {rx : List Byte} {rest : List Answer} (h : s.phase = .xfer2)
    (ha : s.answers = .ok rx :: rest) (hl : rx.length = s.frame.length) :
    tick m s = { s with
      rx := rx, xres := .ok, phase := .ceHigh, answers := rest, trace := s.trace ++ [.xfer s.frame (.ok rx)] } := by
  simp [tick, h, xfer2Phase, xfer_ok ha hl, State.record]

theorem tick_xfer2_fail (m : Microprogram) {s : State} {c : Failure} {rest : List Answer} (h : s.phase = .xfer2)
    (ha : s.answers = .fail c :: rest) :
    tick m s = { s with
      xres := .fail c.bus, phase := .ceHigh, answers := rest, trace := s.trace ++ [.xfer s.frame (.fail c.bus)] } := by
  simp [tick, h, xfer2Phase, xfer_fail ha, State.record]

/-- The release after an exchange that succeeded. -/
theorem tick_ceHigh_ok (m : Microprogram) {s : State} {rx : List Byte} {rest : List Answer} (h : s.phase = .ceHigh)
    (ha : s.answers = .ok rx :: rest) (hx : s.xres = .ok) :
    tick m s = { s with
      ce := .high, phase := .next, answers := rest, trace := s.trace ++ [.lineSet .ce .high none] } := by
  simp [tick, h, ceHighPhase, lineSet_ok ha, State.setLevel, State.record, Drive.level, hx]

/-- The release after an exchange that failed (R135). -/
theorem tick_ceHigh_transferFailure (m : Microprogram) {s : State} {rx : List Byte} {e : BusError} {rest : List Answer}
    (h : s.phase = .ceHigh) (ha : s.answers = .ok rx :: rest) (hx : s.xres = .fail e) :
    tick m s = { s with
      ce := .high, phase := .respond, result := some (.err (.transferFailure e)), answers := rest
      trace := s.trace ++ [.lineSet .ce .high none] } := by
  simp [tick, h, ceHighPhase, lineSet_ok ha, State.setLevel, State.record, Drive.level, hx, State.raise]

/-- A failed release, whatever the exchange was answered (R135). -/
theorem tick_ceHigh_fail (m : Microprogram) {s : State} {c : Failure} {rest : List Answer} (h : s.phase = .ceHigh)
    (ha : s.answers = .fail c :: rest) :
    tick m s = { s with
      ce := .x, phase := .respond, result := some (.err (.enableLineFailure c.line)), answers := rest
      trace := s.trace ++ [.lineSet .ce .high (some c.line)] } := by
  simp [tick, h, ceHighPhase, lineSet_fail ha, State.setLevel, State.record, State.raise]

/-! ### The phases of a transaction, whatever the environment answers -/

theorem tick_cfgHold_cases (m : Microprogram) {s : State} (h : s.phase = .cfgHold) :
    tick m s = { s with
      hold := .high, phase := .cfgWp, answers := s.answers.tail, trace := s.trace ++ [.lineSet .hold .high none] } ∨
    ∃ e : LineError, tick m s = { s with
      hold := .x, phase := .respond, result := some (.err (.holdLineFailure e)), answers := s.answers.tail
      trace := s.trace ++ [.lineSet .hold .high (some e)] } := by
  obtain ⟨r, hr⟩ := lineSet_spec .hold .high s
  cases r with
  | none => left; simp [tick, h, cfgHoldPhase, hr, State.setLevel, State.record, Drive.level]
  | some e => right; exact ⟨e, by simp [tick, h, cfgHoldPhase, hr, State.setLevel, State.record, State.raise]⟩

theorem tick_cfgWp_cases (m : Microprogram) {s : State} (h : s.phase = .cfgWp) :
    tick m s = { s with
      wp := .low, configured := true, phase := .ceLow, answers := s.answers.tail
      trace := s.trace ++ [.lineSet .wp .low none] } ∨
    ∃ e : LineError, tick m s = { s with
      wp := .x, phase := .respond, result := some (.err (.writeProtectLineFailure e)), answers := s.answers.tail
      trace := s.trace ++ [.lineSet .wp .low (some e)] } := by
  obtain ⟨r, hr⟩ := lineSet_spec .wp .low s
  cases r with
  | none => left; simp [tick, h, cfgWpPhase, hr, State.setLevel, State.record, Drive.level]
  | some e => right; exact ⟨e, by simp [tick, h, cfgWpPhase, hr, State.setLevel, State.record, State.raise]⟩

theorem tick_ceLow_cases (m : Microprogram) {s : State} (h : s.phase = .ceLow) :
    tick m s = { s with
      ce := .low, phase := .xfer, answers := s.answers.tail, trace := s.trace ++ [.lineSet .ce .low none] } ∨
    ∃ e : LineError, tick m s = { s with
      ce := .x, phase := .respond, result := some (.err (.enableLineFailure e)), answers := s.answers.tail
      trace := s.trace ++ [.lineSet .ce .low (some e)] } := by
  obtain ⟨r, hr⟩ := lineSet_spec .ce .low s
  cases r with
  | none => left; simp [tick, h, ceLowPhase, hr, State.setLevel, State.record, Drive.level]
  | some e => right; exact ⟨e, by simp [tick, h, ceLowPhase, hr, State.setLevel, State.record, State.raise]⟩

theorem tick_xfer_cases (m : Microprogram) {s : State} (h : s.phase = .xfer) :
    (∃ rx : List Byte, rx.length = s.frame.length ∧ dataExchangeFollows s = false ∧ tick m s = { s with
      rx := rx, xres := .ok, phase := .ceHigh, answers := s.answers.tail, trace := s.trace ++ [.xfer s.frame (.ok rx)] }) ∨
    (∃ rx : List Byte, rx.length = s.frame.length ∧ dataExchangeFollows s = true ∧ tick m s = { s with
      rx := rx, xres := .ok, frame := zeros s.rlen, phase := .xfer2, answers := s.answers.tail
      trace := s.trace ++ [.xfer s.frame (.ok rx)] }) ∨
    ∃ e : BusError, tick m s = { s with
      xres := .fail e, phase := .ceHigh, answers := s.answers.tail, trace := s.trace ++ [.xfer s.frame (.fail e)] } := by
  obtain ⟨r, hr, hl⟩ := xfer_spec s.frame s
  cases r with
  | ok rx =>
    cases hd : dataExchangeFollows s with
    | false =>
      exact .inl ⟨rx, hl rx rfl, rfl, by simp [tick, h, xferPhase, hr, State.record, hd]⟩
    | true => exact .inr (.inl ⟨rx, hl rx rfl, rfl, by simp [tick, h, xferPhase, hr, State.record, hd]⟩)
  | fail e => exact .inr (.inr ⟨e, by simp [tick, h, xferPhase, hr, State.record]⟩)

theorem tick_xfer2_cases (m : Microprogram) {s : State} (h : s.phase = .xfer2) :
    (∃ rx : List Byte, rx.length = s.frame.length ∧ tick m s = { s with
      rx := rx, xres := .ok, phase := .ceHigh, answers := s.answers.tail, trace := s.trace ++ [.xfer s.frame (.ok rx)] }) ∨
    ∃ e : BusError, tick m s = { s with
      xres := .fail e, phase := .ceHigh, answers := s.answers.tail, trace := s.trace ++ [.xfer s.frame (.fail e)] } := by
  obtain ⟨r, hr, hl⟩ := xfer_spec s.frame s
  cases r with
  | ok rx => exact .inl ⟨rx, hl rx rfl, by simp [tick, h, xfer2Phase, hr, State.record]⟩
  | fail e => exact .inr ⟨e, by simp [tick, h, xfer2Phase, hr, State.record]⟩

theorem tick_ceHigh_cases (m : Microprogram) {s : State} (h : s.phase = .ceHigh) :
    (s.xres = .ok ∧ tick m s = { s with
      ce := .high, phase := .next, answers := s.answers.tail, trace := s.trace ++ [.lineSet .ce .high none] }) ∨
    (∃ e : BusError, s.xres = .fail e ∧ tick m s = { s with
      ce := .high, phase := .respond, result := some (.err (.transferFailure e)), answers := s.answers.tail
      trace := s.trace ++ [.lineSet .ce .high none] }) ∨
    ∃ e : LineError, tick m s = { s with
      ce := .x, phase := .respond, result := some (.err (.enableLineFailure e)), answers := s.answers.tail
      trace := s.trace ++ [.lineSet .ce .high (some e)] } := by
  obtain ⟨r, hr⟩ := lineSet_spec .ce .high s
  cases r with
  | none =>
    cases hx : s.xres with
    | ok => exact .inl ⟨rfl, by simp [tick, h, ceHighPhase, hr, State.setLevel, State.record, Drive.level, hx]⟩
    | fail e =>
      exact .inr (.inl ⟨e, rfl, by simp [tick, h, ceHighPhase, hr, State.setLevel, State.record, Drive.level, hx, State.raise]⟩)
  | some e => exact .inr (.inr ⟨e, by simp [tick, h, ceHighPhase, hr, State.setLevel, State.record, State.raise]⟩)

/-! ### Successful transactions -/

/-- The state at the start of the selection when the configuration, if due, has succeeded. -/
def afterConfig (s : State) (rest : List Answer) : State :=
  { s with
    configured := true
    hold := if s.configured then s.hold else .high
    wp := if s.configured then s.wp else .low
    phase := .ceLow
    trace := s.trace ++ configEntries s
    answers := rest }

/-- The state between transactions when the one in `s` has succeeded with the response `rx`. -/
def windowDone (s : State) (rx : List Byte) (rest : List Answer) : State :=
  { s with
    configured := true
    hold := if s.configured then s.hold else .high
    wp := if s.configured then s.wp else .low
    ce := .high
    rx := rx
    xres := .ok
    phase := .next
    trace := s.trace ++ (configEntries s ++ txnEntries s.frame rx)
    answers := rest }

theorem afterConfig_configured {s : State} (rest : List Answer) (hc : s.configured = true) (hp : s.phase = .ceLow)
    (ha : s.answers = rest) : afterConfig s rest = s := by
  cases s; simp_all [afterConfig, configEntries]

/-- The configuration, if due, takes its answers and leads to the selection. -/
theorem advance_config (m : Microprogram) (n : Nat) {s : State} {rest : List Answer}
    (hp : s.phase = windowStart s.configured) (ha : s.answers = configAnswers s ++ rest) :
    advance m ((configAnswers s).length + n) s = advance m n (afterConfig s rest) := by
  rcases hc : s.configured with _ | _
  · have hp' : s.phase = .cfgHold := by rw [hp, hc]; rfl
    have ha' : s.answers = .ok [] :: .ok [] :: rest := by rw [ha]; simp [configAnswers, hc]
    have e : (configAnswers s).length + n = n + 1 + 1 := by simp [configAnswers, hc]; omega
    rw [e, advance_event m _ (by rw [hp']; rfl), tick_cfgHold_ok m hp' ha', settle_atEvent m (by rfl),
      advance_event m _ (by rfl), tick_cfgWp_ok (rx := []) (rest := rest) m rfl rfl, settle_atEvent m (by rfl)]
    simp [afterConfig, hc, configEntries]
  · have hp' : s.phase = .ceLow := by rw [hp, hc]; rfl
    have ha' : s.answers = rest := by rw [ha]; simp [configAnswers, hc]
    have e : (configAnswers s).length + n = n := by simp [configAnswers, hc]
    rw [e, afterConfig_configured rest hc hp' ha']

/-- A transaction with one exchange, from its selection on. -/
theorem advance_selected (m : Microprogram) (n : Nat) {s : State} {rx : List Byte} {rest : List Answer}
    (hp : s.phase = .ceLow) (ha : s.answers = txnAnswers rx ++ rest) (hl : rx.length = s.frame.length)
    (hd : dataExchangeFollows s = false) :
    advance m (3 + n) s = advance m n (settle m { s with
      ce := .high, rx := rx, xres := .ok, phase := .next, trace := s.trace ++ txnEntries s.frame rx, answers := rest }) := by
  have ha' : s.answers = .ok [] :: .ok rx :: .ok [] :: rest := ha
  have e : 3 + n = n + 1 + 1 + 1 := by omega
  rw [e, advance_event m _ (by rw [hp]; rfl), tick_ceLow_ok m hp ha', settle_atEvent m (by rfl),
    advance_event m _ (by rfl), tick_xfer_ok (rx := rx) (rest := .ok [] :: rest) m rfl rfl (by exact hl) (by exact hd), settle_atEvent m (by rfl),
    advance_event m _ (by rfl), tick_ceHigh_ok (rx := []) (rest := rest) m rfl rfl rfl]
  simp [txnEntries]

/-- A transaction with one exchange, from its start: the configuration if due, then CE Low, the exchange, CE High. -/
theorem advance_window (m : Microprogram) (n : Nat) {s : State} {rx : List Byte} {rest : List Answer}
    (hp : s.phase = windowStart s.configured) (ha : s.answers = configAnswers s ++ txnAnswers rx ++ rest)
    (hl : rx.length = s.frame.length) (hd : dataExchangeFollows s = false) :
    advance m ((configAnswers s).length + (3 + n)) s = advance m n (settle m (windowDone s rx rest)) := by
  rw [advance_config m (3 + n) hp (by rw [ha, List.append_assoc]),
    advance_selected (rx := rx) (rest := rest) m n (s := afterConfig s _) rfl rfl hl hd]
  simp [windowDone, afterConfig]

/-- The events of `advance` compose. -/
theorem advance_add (m : Microprogram) (k n : Nat) (s : State) : advance m (k + n) s = advance m n (advance m k s) := by
  induction k generalizing s with
  | zero => simp
  | succ k ih =>
    rw [Nat.succ_add]
    by_cases h : s.phase.atEvent = true
    · rw [advance_event m _ h, advance_event m _ h, ih]
    · have h' : s.phase.atEvent = false := by simpa using h
      rw [advance_rest m _ h', advance_rest m _ h', advance_rest m _ h']

/-! ### The same for the transaction of a wire frame -/

theorem runWindow_config (n : Nat) {s : State} {rest : List Answer} (hp : s.phase = windowStart s.configured)
    (ha : s.answers = configAnswers s ++ rest) :
    runWindow ((configAnswers s).length + n) s = runWindow n (afterConfig s rest) := by
  rcases hc : s.configured with _ | _
  · have hp' : s.phase = .cfgHold := by rw [hp, hc]; rfl
    have ha' : s.answers = .ok [] :: .ok [] :: rest := by rw [ha]; simp [configAnswers, hc]
    have e : (configAnswers s).length + n = n + 1 + 1 := by simp [configAnswers, hc]; omega
    rw [e, runWindow_event _ (by rw [hp']; rfl) ⟨id, id⟩, tick_cfgHold_ok _ hp' ha', runWindow_event _ (by rfl) ⟨id, id⟩,
      tick_cfgWp_ok (rx := []) (rest := rest) _ rfl rfl]
    simp [afterConfig, hc, configEntries]
  · have hp' : s.phase = .ceLow := by rw [hp, hc]; rfl
    have ha' : s.answers = rest := by rw [ha]; simp [configAnswers, hc]
    have e : (configAnswers s).length + n = n := by simp [configAnswers, hc]
    rw [e, afterConfig_configured rest hc hp' ha']

theorem runWindow_selected (n : Nat) {s : State} {rx : List Byte} {rest : List Answer} (hp : s.phase = .ceLow)
    (ha : s.answers = txnAnswers rx ++ rest) (hl : rx.length = s.frame.length) (hd : dataExchangeFollows s = false) :
    runWindow (3 + n) s = { s with
      ce := .high, rx := rx, xres := .ok, phase := .next, trace := s.trace ++ txnEntries s.frame rx, answers := rest } := by
  have ha' : s.answers = .ok [] :: .ok rx :: .ok [] :: rest := ha
  have e : 3 + n = n + 1 + 1 + 1 := by omega
  rw [e, runWindow_event _ (by rw [hp]; rfl) ⟨id, id⟩, tick_ceLow_ok _ hp ha', runWindow_event _ (by rfl) ⟨id, id⟩,
    tick_xfer_ok (rx := rx) (rest := .ok [] :: rest) _ rfl rfl (by exact hl) (by exact hd),
    runWindow_event _ (by rfl) ⟨id, id⟩, tick_ceHigh_ok (rx := []) (rest := rest) _ rfl rfl rfl, runWindow_rest _ rfl]
  simp [txnEntries]

/-- A wire frame's transaction with one exchange, on the success path. -/
theorem runWindow_window (n : Nat) {s : State} {rx : List Byte} {rest : List Answer}
    (hp : s.phase = windowStart s.configured) (ha : s.answers = configAnswers s ++ txnAnswers rx ++ rest)
    (hl : rx.length = s.frame.length) (hd : dataExchangeFollows s = false) :
    runWindow ((configAnswers s).length + (3 + n)) s = windowDone s rx rest := by
  rw [runWindow_config (3 + n) hp (by rw [ha, List.append_assoc]),
    runWindow_selected (rx := rx) (rest := rest) n (s := afterConfig s _) rfl rfl hl hd]
  simp [windowDone, afterConfig]

end Sys2Proof.Machine
end

