-- ==== Sys2Proof/Laws/Run.lean ====
section
/-!
SUPPORT. How an operation runs: one transaction after another, acceptance, the wait, the wire frames, and the induction
principles over what a step does.
-/

namespace Sys2Proof.Machine

/-! ### One transaction of an operation -/

/-- Only a frame of four bytes can be followed by a data exchange (R98, R137). -/
theorem no_dataExchange {s : State} (h : s.frame.length ≠ 4) : dataExchangeFollows s = false := by
  cases hf : s.cfg.readFraming <;> simp [dataExchangeFollows, hf, isReadCommand, h]

theorem configAnswers_congr {s u : State} (h : u.configured = s.configured) : configAnswers u = configAnswers s := by
  simp [configAnswers, h]

theorem configEntries_congr {s u : State} (h : u.configured = s.configured) : configEntries u = configEntries s := by
  simp [configEntries, h]

/-- A transaction of an operation that succeeds, with one exchange: it takes its answers, and the operation goes on from the
state between transactions. -/
theorem advance_txn (m : Microprogram) {s : State} {g : Stage} {f rx : List Byte} {rest : List Answer}
    (ha : s.answers = configAnswers s ++ txnAnswers rx ++ rest) (hl : rx.length = f.length) (h4 : f.length ≠ 4) :
    advance m s.answers.length (s.beginTxn g f) =
      advance m rest.length (settle m (windowDone (s.beginTxn g f) rx rest)) := by
  have e : s.answers.length = (configAnswers (s.beginTxn g f)).length + (3 + rest.length) := by
    show s.answers.length = (configAnswers s).length + (3 + rest.length)
    rw [ha]; simp [txnAnswers]; omega
  rw [e]
  exact advance_window m rest.length rfl ha hl (no_dataExchange h4)

/-- The same when the next phase begins another transaction. -/
theorem advance_txn_then (m : Microprogram) {s : State} {g : Stage} {f rx : List Byte} {rest : List Answer}
    (ha : s.answers = configAnswers s ++ txnAnswers rx ++ rest) (hl : rx.length = f.length) (h4 : f.length ≠ 4)
    {g' : Stage} {f' : List Byte}
    (hn : m.next (windowDone (s.beginTxn g f) rx rest) = (windowDone (s.beginTxn g f) rx rest).beginTxn g' f') :
    advance m s.answers.length (s.beginTxn g f) =
      advance m rest.length ((windowDone (s.beginTxn g f) rx rest).beginTxn g' f') := by
  rw [advance_txn m ha hl h4, settle_next_event m rfl (by rw [hn]; exact windowStart_atEvent true), hn]

/-- The same when the operation returns after it. -/
theorem advance_txn_return (m : Microprogram) {s : State} {g : Stage} {f rx : List Byte} {rest : List Answer}
    (ha : s.answers = configAnswers s ++ txnAnswers rx ++ rest) (hl : rx.length = f.length) (h4 : f.length ≠ 4)
    {v : OpValue} (hn : m.next (windowDone (s.beginTxn g f) rx rest) = (windowDone (s.beginTxn g f) rx rest).returnOk v) :
    advance m s.answers.length (s.beginTxn g f) = ((windowDone (s.beginTxn g f) rx rest).returnOk v).respond := by
  rw [advance_txn m ha hl h4, settle_next_respond m rfl (by rw [hn]; rfl), hn, advance_rest m _ rfl]

/-- The same when the operation raises an error after it. -/
theorem advance_txn_raise (m : Microprogram) {s : State} {g : Stage} {f rx : List Byte} {rest : List Answer}
    (ha : s.answers = configAnswers s ++ txnAnswers rx ++ rest) (hl : rx.length = f.length) (h4 : f.length ≠ 4)
    {k : OpError} (hn : m.next (windowDone (s.beginTxn g f) rx rest) = (windowDone (s.beginTxn g f) rx rest).raise k) :
    advance m s.answers.length (s.beginTxn g f) = ((windowDone (s.beginTxn g f) rx rest).raise k).respond := by
  rw [advance_txn m ha hl h4, settle_next_respond m rfl (by rw [hn]; rfl), hn, advance_rest m _ rfl]

/-! ### Acceptance -/

/-- A request whose checks pass begins its first transaction and runs on through the fixed answers. -/
theorem accept_begins {m : Microprogram} {load : State → State} {s : State} (h : s.phase = .idle) {g : Stage} {f : List Byte}
    (hv : m.validate { load s with phase := .validate } = State.beginTxn g f { load s with phase := .validate }) :
    accept m load s =
      .next (advance m (load s).answers.length (State.beginTxn g f { load s with phase := .validate })) := by
  rw [accept_idle m load h, settle_validate_event m rfl (by rw [hv]; exact windowStart_atEvent _), hv]; rfl

/-- A request whose checks fail is over at once: its error is reported and nothing else happens. -/
theorem accept_raises {m : Microprogram} {load : State → State} {s : State} (h : s.phase = .idle) {k : OpError}
    (hv : m.validate { load s with phase := .validate } = State.raise k { load s with phase := .validate }) :
    accept m load s = .next { load s with
      phase := .idle, result := some (.err k)
      results := (load s).results ++ [⟨.err k, (load s).configured, (load s).blocking⟩] } := by
  rw [accept_idle m load h, settle_validate_respond m rfl (by rw [hv]; rfl), hv, advance_rest _ _ rfl]; rfl

/-- Every host operation that reaches a transaction and is within the bounds is the acceptance of its request, whose checks pass; latching the operands
changes nothing else. -/
theorem exec_reachesTransaction (s : State) (i : Instr) (hi : Instr.reachesTransaction i = true)
    (hb : s.cfg.admits i = true) :
    ∃ (m : Microprogram) (load : State → State) (g : Stage) (f : List Byte), exec i s = accept m load s ∧
      m.validate { load s with phase := .validate } = State.beginTxn g f { load s with phase := .validate } ∧
      (load s).configured = s.configured ∧ (load s).answers = s.answers ∧ (load s).trace = s.trace ∧
      (load s).results = s.results ∧ (load s).blocking = s.blocking ∧ (load s).hold = s.hold ∧ (load s).wp = s.wp ∧
      (load s).ce = s.ce := by
  cases i <;> simp [Instr.reachesTransaction] at hi
  case readStatus => exact ⟨readStatusProgram, fun s => { s with op := .readStatus }, .main, rdsrBytes, rfl, rfl,
      rfl, rfl, rfl, rfl, rfl, rfl, rfl, rfl⟩
  case writeEnable => exact ⟨writeEnableProgram, fun s => { s with op := .writeEnable }, .main, wrenBytes, rfl, rfl,
      rfl, rfl, rfl, rfl, rfl, rfl, rfl, rfl⟩
  case writeDisable => exact ⟨writeDisableProgram, fun s => { s with op := .writeDisable }, .main, wrdiBytes, rfl, rfl,
      rfl, rfl, rfl, rfl, rfl, rfl, rfl, rfl⟩
  case writeStatus st => exact ⟨writeStatusProgram, fun s => { s with op := .writeStatus, statIn := st }, .enable, wrenBytes, rfl, rfl,
      rfl, rfl, rfl, rfl, rfl, rfl, rfl, rfl⟩
  case eraseFull => exact ⟨eraseFullProgram, fun s => { s with op := .eraseFull }, .enable, wrenBytes, rfl, rfl,
      rfl, rfl, rfl, rfl, rfl, rfl, rfl, rfl⟩
  case byteProgram a d =>
    refine ⟨byteProgramProgram, fun s => { s with op := .byteProgram, addr := a, data := d }, .enable, wrenBytes, rfl, ?_,
      rfl, rfl, rfl, rfl, rfl, rfl, rfl, rfl⟩
    · simp [byteProgramProgram, addressAccepted, Config.maxAddress, BitVec.le_def, hi]
  case aaiProgram a d =>
    refine ⟨aaiProgramProgram, fun s => { s with op := .aaiProgram, addr := a, buf := d }, .enable, wrenBytes, ?_, ?_,
      rfl, rfl, rfl, rfl, rfl, rfl, rfl, rfl⟩
    · simp only [exec, execAaiProgram, hb, acceptWithin_admitted]
    · have : ¬ d.length ≤ 1 := by omega
      simp [aaiProgramProgram, aaiChecks, addressAccepted, Config.maxAddress, BitVec.le_def, hi, State.len, this]
  case read a d =>
    refine ⟨readProgram, fun s => { s with op := .read, addr := a, rlen := d }, .main, readFrame s.cfg (wireAddress s.cfg a) d, ?_, ?_,
      rfl, rfl, rfl, rfl, rfl, rfl, rfl, rfl⟩
    · have : d ≠ 0 := by omega
      simp only [exec, execRead, this, if_false, hb, acceptWithin_admitted]
    · simp [readProgram, addressAccepted, Config.maxAddress, BitVec.le_def, hi]

/-! ### Waiting -/

theorem busyBit_eq {b : Bool} {s : State} {rx : List Byte} (h : statusResponse b rx) (hr : s.rx = rx) : busyBit s = b := by
  subst hr; exact h.2

theorem pollAgain_busy (done : State → State) {s : State} {rx : List Byte} (h : statusResponse true rx) (hr : s.rx = rx) :
    pollAgain done s = s.beginTxn .poll rdsrBytes := by
  rw [pollAgain, busyBit_eq h hr, if_pos rfl]

theorem pollAgain_idle (done : State → State) {s : State} {rx : List Byte} (h : statusResponse false rx) (hr : s.rx = rx) :
    pollAgain done s = done s := by
  rw [pollAgain, busyBit_eq h hr]; rfl

/-- The polls of a wait that are answered busy: the block stands before the next poll, whatever their number (R210, R212). Only
RX, XRES and CE are not said. -/
theorem advance_busyPolls {m : Microprogram} {done : State → State}
    (hm : ∀ u : State, u.stage = .poll → m.next u = pollAgain done u) (busy : List (List Byte)) :
    ∀ (s : State) (rest : List Answer), s.phase = .ceLow → s.stage = .poll → s.frame = rdsrBytes → s.configured = true →
      (∀ rx ∈ busy, statusResponse true rx) → s.answers = pollAnswers busy ++ rest →
      ∃ (ce : Level) (rx : List Byte) (xr : XRes), advance m s.answers.length s = advance m rest.length { s with
        ce := ce, rx := rx, xres := xr, trace := s.trace ++ pollEntries busy, answers := rest } := by
  induction busy with
  | nil =>
    intro s rest hp hs hf hc hb ha
    have ha' : s.answers = rest := by simpa [pollAnswers] using ha
    exact ⟨s.ce, s.rx, s.xres, by simp [pollEntries, ← ha']⟩
  | cons rx busy ih =>
    intro s rest hp hs hf hc hb ha
    have hself : s.beginTxn .poll rdsrBytes = s := by
      cases s; simp_all [State.beginTxn, windowStart]
    have hw : ∀ r, windowDone s rx r = windowDone (s.beginTxn .poll rdsrBytes) rx r := by intro r; rw [hself]
    have hn : m.next (windowDone (s.beginTxn .poll rdsrBytes) rx (pollAnswers busy ++ rest)) =
        (windowDone (s.beginTxn .poll rdsrBytes) rx (pollAnswers busy ++ rest)).beginTxn .poll rdsrBytes := by
      rw [hm _ rfl]; exact pollAgain_busy done (hb rx (by simp)) rfl
    have h1 := advance_txn_then m (s := s) (g := .poll) (f := rdsrBytes) (rx := rx) (rest := pollAnswers busy ++ rest)
      (by rw [ha]; simp [configAnswers, hc, pollAnswers]) (by rw [(hb rx (by simp)).1]; rfl) (by decide) hn
    rw [hself] at h1
    obtain ⟨ce, rx', xr, h2⟩ := ih ((windowDone s rx (pollAnswers busy ++ rest)).beginTxn .poll rdsrBytes) rest rfl rfl rfl rfl
      (fun r hr => hb r (by simp [hr])) rfl
    refine ⟨ce, rx', xr, ?_⟩
    rw [h1, show (pollAnswers busy ++ rest).length =
      ((windowDone s rx (pollAnswers busy ++ rest)).beginTxn .poll rdsrBytes).answers.length from rfl, h2]
    simp [State.beginTxn, windowDone, hc, hs, hf, hp, windowStart, pollEntries, configEntries]

/-- A wait that ends: the operation goes on from the state between transactions, with the last response in RX (R210). -/
theorem advance_wait {m : Microprogram} {done : State → State}
    (hm : ∀ u : State, u.stage = .poll → m.next u = pollAgain done u) {busy : List (List Byte)} {last : List Byte} {s : State}
    {rest : List Answer} (hp : s.phase = .ceLow) (hs : s.stage = .poll) (hf : s.frame = rdsrBytes) (hc : s.configured = true)
    (hw : waitResponses busy last) (ha : s.answers = waitAnswers busy last ++ rest) :
    advance m s.answers.length s = advance m rest.length (settle m { s with
      phase := .next, ce := .high, rx := last, xres := .ok, trace := s.trace ++ waitEntries busy last, answers := rest }) ∧
    m.next { s with
      phase := .next, ce := .high, rx := last, xres := .ok, trace := s.trace ++ waitEntries busy last, answers := rest } =
      done { s with
        phase := .next, ce := .high, rx := last, xres := .ok, trace := s.trace ++ waitEntries busy last, answers := rest } := by
  obtain ⟨ce, rx, xr, h⟩ := advance_busyPolls hm busy s (txnAnswers last ++ rest) hp hs hf hc hw.1
    (by rw [ha]; simp [waitAnswers])
  constructor
  · have e : (txnAnswers last ++ rest).length = 3 + rest.length := by simp [txnAnswers]; omega
    have hl : last.length = s.frame.length := by rw [hf, hw.2.1]; rfl
    have h4 : s.frame.length ≠ 4 := by rw [hf]; decide
    rw [h, e, advance_selected (rx := last) (rest := rest) m rest.length (by exact hp) rfl (by exact hl)
      (no_dataExchange (by exact h4))]
    simp [waitEntries, hf]
  · rw [hm _ (by exact hs)]
    exact pollAgain_idle done hw.2 rfl

/-! ### Wire frames -/

/-- A frame with one exchange, on the success path: the state between transactions. -/
theorem issue_window {s : State} {bytes rx : List Byte} {rest : List Answer}
    (ha : s.answers = configAnswers s ++ txnAnswers rx ++ rest) (hl : rx.length = bytes.length)
    (hd : dataExchangeFollows { s with frame := bytes } = false) :
    issue bytes s = .next (windowDone { s with frame := bytes } rx rest) := by
  have e : max 1 (s.openWindow bytes).answers.length = (configAnswers (s.openWindow bytes)).length + (3 + rest.length) := by
    show max 1 s.answers.length = (configAnswers s).length + (3 + rest.length)
    simp [ha, txnAnswers]; omega
  have h := runWindow_window (s := s.openWindow bytes) (rx := rx) (rest := rest) rest.length rfl ha hl hd
  simp only [issue, e]
  rw [h]; rfl

/-- Every well-formed wire frame is the transaction of some bytes; only READ loads RLEN. -/
theorem exec_wire (i : Instr) (s : State) (h : i.isHostOp = false) (hw : i.wf = true) :
    ∃ (bytes : List Byte) (l : Nat), exec i s = issue bytes { s with rlen := l } := by
  cases i <;> simp [Instr.isHostOp] at h
  case readMem a l =>
    simp [Instr.wf] at hw
    refine ⟨readFrame s.cfg a l, l, ?_⟩
    simp [exec, execReadMem]; omega
  all_goals exact ⟨_, s.rlen, rfl⟩

/-- Every frame but READ is the transaction of its own bytes. -/
theorem exec_plainFrame {i : Instr} {bytes : List Byte} {s : State} (h : Instr.isPlainFrame i = true)
    (he : encode s.cfg.wsPrelude i = .frame bytes) : exec i s = issue bytes s := by
  cases i <;> simp [Instr.isPlainFrame] at h <;> simp [encode] at he <;> subst he <;> rfl

theorem plainFrame_not_readCommand {p : Byte} {i : Instr} {bytes : List Byte} (h : Instr.isPlainFrame i = true)
    (he : encode p i = .frame bytes) : isReadCommand bytes = false := by
  cases i <;> simp [Instr.isPlainFrame] at h <;> simp [encode] at he <;> subst he <;> rfl

/-! ### Induction over what a step does -/

/-- A property that each event with the phases after it keeps, is kept by `advance`. -/
theorem advance_induct {m : Microprogram} {P : State → Prop}
    (h : ∀ s : State, s.phase.atEvent = true → P s → P (settle m (tick m s))) (n : Nat) :
    ∀ s : State, P s → P (advance m n s) := by
  induction n with
  | zero => intro s hs; exact hs
  | succ n ih =>
    intro s hs
    by_cases he : s.phase.atEvent = true
    · rw [advance_event m n he]; exact ih _ (h s he hs)
    · rw [advance_rest m _ (by simpa using he)]; exact hs

/-- A property that each phase transition keeps, is kept by `settle`. -/
theorem settle_induct {m : Microprogram} {P : State → Prop} (h : ∀ s : State, P s → P (tick m s)) (s : State) (hs : P s) :
    P (settle m s) := by
  have hq : ∀ s : State, P s → P (quiet m s) := by
    intro s hs
    unfold quiet
    split
    · exact hs
    · exact h s hs
  exact hq _ (hq _ hs)

/-- A property that each phase transition keeps, and that holds of the latched request, holds after acceptance. -/
theorem accept_induct {m : Microprogram} {load : State → State} {s t : State} {P : State → Prop}
    (h : ∀ s : State, P s → P (tick m s)) (hs : P { load s with phase := .validate }) (ht : accept m load s = .next t) : P t := by
  unfold accept at ht
  split at ht
  · cases ht
    exact advance_induct (fun s _ hs => settle_induct h _ (h s hs)) _ _ (settle_induct h _ hs)
  · cases ht

/-- A property that each event of a transaction keeps, is kept by the transaction of a frame. -/
theorem runWindow_induct {P : State → Prop} (h : ∀ s : State, s.phase.atEvent = true → P s → P (tick ⟨id, id⟩ s)) (n : Nat) :
    ∀ s : State, P s → P (runWindow n s) := by
  induction n with
  | zero => intro s hs; exact hs
  | succ n ih =>
    intro s hs
    by_cases he : s.phase.atEvent = true
    · rw [runWindow_event n he ⟨id, id⟩]; exact ih _ (h s he hs)
    · rw [runWindow_rest _ (by simpa using he)]; exact hs

/-- What a step can be: waiting in IDLE, a request executed, a frame executed, or one phase transition. -/
theorem step_next_cases {s t : State} (h : step s = .next t) :
    (s.phase = .idle ∧ s.program = [] ∧ t = s) ∨
    (∃ (r : Request) (rest : List Request) (i : Instr), s.phase = .idle ∧ s.program = r :: rest ∧
      decodeRequest r = .ok i ∧ exec i { s with program := rest } = .next t) ∨
    (∃ i : Instr, (s.phase = .cfgHold ∨ s.phase = .ceLow) ∧ windowInstr s = .ok i ∧ exec i s = .next t) ∨
    (s.phase ≠ .idle ∧ s.phase ≠ .cfgHold ∧ s.phase ≠ .ceLow ∧ t = tick (microprogram s.op) s) := by
  unfold step at h
  split at h
  · rename_i hp
    split at h
    · cases h; exact .inl ⟨hp, ‹_›, rfl⟩
    · split at h
      · exact .inr (.inl ⟨_, _, _, hp, ‹_›, ‹_›, h⟩)
      · cases h
  · split at h
    · exact .inr (.inr (.inl ⟨_, .inl ‹_›, ‹_›, h⟩))
    · cases h
  · split at h
    · exact .inr (.inr (.inl ⟨_, .inr ‹_›, ‹_›, h⟩))
    · cases h
  all_goals
    cases h
    exact .inr (.inr (.inr ⟨by simp [*], by simp [*], by simp [*], rfl⟩))

end Sys2Proof.Machine
end

