-- ==== Sys2Proof/Laws/Answers.lean ====
section
/-!
SUPPORT. The answers still to come steer nothing but events: what a phase does with further answers behind the fixed ones.
-/

namespace Sys2Proof.Machine

/-- The same state with further answers behind the fixed ones. -/
def State.withMoreAnswers (s : State) (bs : List Answer) : State := { s with answers := s.answers ++ bs }

/-- A line command with a fixed answer. -/
theorem lineSet_withMoreAnswers {s : State} (ha : s.answers ≠ []) (bs : List Answer) (l : Line) (v : Drive) :
    lineSet l v (s.withMoreAnswers bs) = ((lineSet l v s).1, (lineSet l v s).2.withMoreAnswers bs) := by
  obtain ⟨a, rest, hr⟩ := List.exists_cons_of_ne_nil ha
  cases a <;> cases l <;> simp [lineSet, answerTo, hr, State.record, State.setLevel, State.withMoreAnswers]

/-- An exchange with a fixed answer. -/
theorem xfer_withMoreAnswers {s : State} (ha : s.answers ≠ []) (bs : List Answer) (tx : List Byte) :
    xfer tx (s.withMoreAnswers bs) = ((xfer tx s).1, (xfer tx s).2.withMoreAnswers bs) := by
  obtain ⟨a, rest, hr⟩ := List.exists_cons_of_ne_nil ha
  cases a <;> simp [xfer, answerTo, hr, State.record, State.withMoreAnswers]

/-- At an event with a fixed answer, further answers behind it change nothing but themselves. -/
theorem tick_withMoreAnswers (m : Microprogram) {s : State} (h : s.phase.atEvent = true) (ha : s.answers ≠ [])
    (bs : List Answer) : tick m (s.withMoreAnswers bs) = (tick m s).withMoreAnswers bs := by
  have hp' : (s.withMoreAnswers bs).phase = s.phase := rfl
  have hf : (s.withMoreAnswers bs).frame = s.frame := rfl
  have hd : dataExchangeFollows (s.withMoreAnswers bs) = dataExchangeFollows s := rfl
  cases hp : s.phase <;> simp [hp, Phase.atEvent] at h
  case cfgHold =>
    simp only [tick, hp', hp, cfgHoldPhase, lineSet_withMoreAnswers ha]
    obtain ⟨r | r, u⟩ := lineSet .hold .high s <;> rfl
  case cfgWp =>
    simp only [tick, hp', hp, cfgWpPhase, lineSet_withMoreAnswers ha]
    obtain ⟨r | r, u⟩ := lineSet .wp .low s <;> rfl
  case ceLow =>
    simp only [tick, hp', hp, ceLowPhase, lineSet_withMoreAnswers ha]
    obtain ⟨r | r, u⟩ := lineSet .ce .low s <;> rfl
  case xfer =>
    simp only [tick, hp', hp, hf, hd, xferPhase, xfer_withMoreAnswers ha]
    obtain ⟨r | r, u⟩ := xfer s.frame s
    · cases dataExchangeFollows s <;> rfl
    · rfl
  case xfer2 =>
    simp only [tick, hp', hp, hf, xfer2Phase, xfer_withMoreAnswers ha]
    obtain ⟨r | r, u⟩ := xfer s.frame s <;> rfl
  case ceHigh =>
    simp only [tick, hp', hp, ceHighPhase, lineSet_withMoreAnswers ha]
    obtain ⟨r | r, u⟩ := lineSet .ce .high s
    · have hx : (u.withMoreAnswers bs).xres = u.xres := rfl
      simp only [hx]
      cases u.xres <;> rfl
    · rfl

/-- In a phase without an event, the answers to come change nothing but themselves. -/
theorem quiet_withMoreAnswers {m : Microprogram} (hm : ∀ s bs, m.validate (State.withMoreAnswers s bs) =
    (m.validate s).withMoreAnswers bs) (hn : ∀ s bs, m.next (State.withMoreAnswers s bs) = (m.next s).withMoreAnswers bs)
    (s : State) (bs : List Answer) : quiet m (s.withMoreAnswers bs) = (quiet m s).withMoreAnswers bs := by
  have hp' : (s.withMoreAnswers bs).phase = s.phase := rfl
  have hr : (s.withMoreAnswers bs).result = s.result := rfl
  cases hp : s.phase <;> simp only [quiet, hp', hp, Phase.atEvent, tick, hm, hn] <;>
    first
      | rfl
      | simp only [State.respond, hr, if_false, Bool.false_eq_true]; cases s.result <;> rfl

/-- VALIDATE reads no answer. -/
theorem validate_withMoreAnswers (op : HostOp) (s : State) (bs : List Answer) :
    (microprogram op).validate (s.withMoreAnswers bs) = ((microprogram op).validate s).withMoreAnswers bs := by
  have ha : (s.withMoreAnswers bs).addr = s.addr := rfl
  have hc : aaiChecks (s.withMoreAnswers bs) = aaiChecks s := rfl
  cases op <;> try rfl
  · simp only [microprogram, byteProgramProgram, ha]; cases addressAccepted s.addr <;> rfl
  · simp only [microprogram, aaiProgramProgram, hc]; cases aaiChecks s <;> rfl
  · simp only [microprogram, readProgram, ha]; cases addressAccepted s.addr <;> rfl

/-- NEXT reads no answer. -/
theorem next_withMoreAnswers (op : HostOp) (s : State) (bs : List Answer) :
    (microprogram op).next (s.withMoreAnswers bs) = ((microprogram op).next s).withMoreAnswers bs := by
  have hs : (s.withMoreAnswers bs).stage = s.stage := rfl
  have hb : busyBit (s.withMoreAnswers bs) = busyBit s := rfl
  have hf : (s.withMoreAnswers bs).blocking = s.blocking := rfl
  cases op <;> try rfl
  · simp only [microprogram, writeStatusProgram, hs]; cases s.stage <;> rfl
  · simp only [microprogram, eraseFullProgram, hs, assertNotBusy, waitFor, pollAgain, hb, hf]
    cases s.stage <;> cases busyBit s <;> cases s.blocking <;> rfl
  · simp only [microprogram, byteProgramProgram, hs, assertNotBusy, waitFor, pollAgain, hb, hf]
    cases s.stage <;> cases busyBit s <;> cases s.blocking <;> rfl
  · have hd : aaiChunkDone (s.withMoreAnswers bs) = (aaiChunkDone s).withMoreAnswers bs := by
      by_cases h : s.idx + 1 + 1 ≤ s.len / 2
      · exact (if_pos h).trans (congrArg (State.withMoreAnswers · bs) (if_pos h : aaiChunkDone s = _).symm)
      · exact (if_neg h).trans (congrArg (State.withMoreAnswers · bs) (if_neg h : aaiChunkDone s = _).symm)
    simp only [microprogram, aaiProgramProgram, hs, assertNotBusy, waitFor, pollAgain, hb, hf, hd]
    cases s.stage <;> cases busyBit s <;> cases s.blocking <;> rfl

/-- The phases up to the next event, with further answers to come. -/
theorem settle_withMoreAnswers (op : HostOp) (s : State) (bs : List Answer) :
    settle (microprogram op) (s.withMoreAnswers bs) = (settle (microprogram op) s).withMoreAnswers bs := by
  simp only [settle, quiet_withMoreAnswers (validate_withMoreAnswers op) (next_withMoreAnswers op)]

end Sys2Proof.Machine
end

