-- ==== Sys2Proof/Laws/Encoding.lean ====
section
/-!
SUPPORT. The small lemmas of the encoding's fields: the address field and the status byte of a frame, both ways.
-/

namespace Sys2Proof

/-- The three bytes of an address field give the address back (R124). -/
theorem addrOfField_addrField (a : WireAddr) :
    addrOfField (a.extractLsb' 16 8) (a.extractLsb' 8 8) (a.extractLsb' 0 8) = a := by
  unfold addrOfField
  apply BitVec.eq_of_getLsbD_eq
  intro i hi
  simp only [BitVec.getLsbD_or, BitVec.getLsbD_shiftLeft, BitVec.getLsbD_setWidth, BitVec.getLsbD_extractLsb', hi,
    decide_true, Bool.true_and, Nat.zero_add]
  rcases Nat.lt_or_ge i 8 with h1 | h1
  · simp [h1, show i < 16 by omega]
  · rcases Nat.lt_or_ge i 16 with h2 | h2
    · have e : 8 + (i - 8) = i := by omega
      simp [h2, show ¬ i < 8 by omega, show i - 8 < 8 by omega, show i - 8 < 24 by omega, e]
    · have e : 16 + (i - 16) = i := by omega
      simp [show ¬ i < 16 by omega, show ¬ i < 8 by omega, show ¬ i - 8 < 8 by omega, show i - 16 < 8 by omega,
        show i - 16 < 24 by omega, e]

theorem addrOfField_high (b2 b1 b0 : Byte) : (addrOfField b2 b1 b0).extractLsb' 16 8 = b2 := by
  unfold addrOfField
  apply BitVec.eq_of_getLsbD_eq
  intro i hi
  simp only [BitVec.getLsbD_or, BitVec.getLsbD_shiftLeft, BitVec.getLsbD_setWidth, BitVec.getLsbD_extractLsb', hi,
    decide_true, Bool.true_and]
  have e : 16 + i - 16 = i := by omega
  simp [show 16 + i < 24 by omega, show i < 24 by omega, BitVec.getLsbD_of_ge b1 (16 + i - 8) (by omega),
    BitVec.getLsbD_of_ge b0 (16 + i) (by omega)]

theorem addrOfField_mid (b2 b1 b0 : Byte) : (addrOfField b2 b1 b0).extractLsb' 8 8 = b1 := by
  unfold addrOfField
  apply BitVec.eq_of_getLsbD_eq
  intro i hi
  simp only [BitVec.getLsbD_or, BitVec.getLsbD_shiftLeft, BitVec.getLsbD_setWidth, BitVec.getLsbD_extractLsb', hi,
    decide_true, Bool.true_and]
  simp [show 8 + i < 16 by omega, show 8 + i < 24 by omega, show i < 24 by omega]

theorem addrOfField_low (b2 b1 b0 : Byte) : (addrOfField b2 b1 b0).extractLsb' 0 8 = b0 := by
  unfold addrOfField
  apply BitVec.eq_of_getLsbD_eq
  intro i hi
  simp only [BitVec.getLsbD_or, BitVec.getLsbD_shiftLeft, BitVec.getLsbD_setWidth, BitVec.getLsbD_extractLsb', hi,
    decide_true, Bool.true_and, Nat.zero_add]
  simp [show i < 16 by omega, hi, show i < 24 by omega]

/-- The address of three bytes has them as its field. -/
@[simp] theorem addrField_addrOfField (b2 b1 b0 : Byte) : addrField (addrOfField b2 b1 b0) = [b2, b1, b0] := by
  simp [addrField, addrOfField_high, addrOfField_mid, addrOfField_low]

@[simp] theorem addrField_length (a : WireAddr) : (addrField a).length = 3 := rfl

@[simp] theorem zeros_length (n : Nat) : (zeros n).length = n := by simp [zeros]

theorem zeros_succ (n : Nat) : zeros (n + 1) = Config.dummy :: zeros n := rfl

/-- The status byte of a WRSR frame carries its five fields (R94). -/
@[simp] theorem protectionOfByte_protectionByte (p : Protection) : protectionOfByte (protectionByte p) = p := by
  obtain ⟨a, b, c, d, e⟩ := p
  revert a b c d e
  decide

/-- The status byte of a WRSR frame has bits 0, 1 and 6 clear (R94). -/
theorem protectionByte_mask (p : Protection) : protectionByte p &&& 0x43 = 0 := by
  obtain ⟨a, b, c, d, e⟩ := p
  revert a b c d e
  decide

theorem protectionByte_protectionOfByte : ∀ b : Byte, b &&& 0x43 = 0 → protectionByte (protectionOfByte b) = b := by
  decide

end Sys2Proof
end

