-- ==== Sys2Proof/Laws/PerInstr.lean ====
section
/-!
SUPPORT. Facts of the syntax, one lemma per instruction.
-/

namespace Sys2Proof.Laws

/-- The encoder keeps the two levels apart: a host operation encodes to a request, a wire frame to bytes that begin the way its
row of R82 says, whatever the operands. -/
def EncodedKind.Statement (i : Instr) : Prop :=
  ∀ pre : Byte, (i.isHostOp = true ↔ ∃ r : Request, encode pre i = .request r) ∧
    (i.isHostOp = false ↔ ∃ o : Byte, ∃ rest : List Byte, encode pre i = .frame (o :: rest))

theorem EncodedKind.of_request {i : Instr} (hi : i.isHostOp = true)
    (h : ∀ pre : Byte, ∃ r : Request, encode pre i = .request r) : EncodedKind.Statement i := by
  intro pre
  obtain ⟨r, hr⟩ := h pre
  simp [hi, hr]

theorem EncodedKind.of_frame {i : Instr} (hi : i.isHostOp = false)
    (h : ∀ pre : Byte, ∃ o : Byte, ∃ rest : List Byte, encode pre i = .frame (o :: rest)) : EncodedKind.Statement i := by
  intro pre
  obtain ⟨o, rest, hr⟩ := h pre
  simp [hi, hr]

theorem EncodedKind.readStatus : EncodedKind.Statement .readStatus := of_request rfl fun _ => ⟨_, rfl⟩
theorem EncodedKind.writeEnable : EncodedKind.Statement .writeEnable := of_request rfl fun _ => ⟨_, rfl⟩
theorem EncodedKind.writeDisable : EncodedKind.Statement .writeDisable := of_request rfl fun _ => ⟨_, rfl⟩
theorem EncodedKind.writeStatus (st : Status) : EncodedKind.Statement (.writeStatus st) := of_request rfl fun _ => ⟨_, rfl⟩
theorem EncodedKind.eraseFull : EncodedKind.Statement .eraseFull := of_request rfl fun _ => ⟨_, rfl⟩
theorem EncodedKind.byteProgram (a : Addr) (d : Byte) : EncodedKind.Statement (.byteProgram a d) :=
  of_request rfl fun _ => ⟨_, rfl⟩
theorem EncodedKind.aaiProgram (a : Addr) (buf : List Byte) : EncodedKind.Statement (.aaiProgram a buf) :=
  of_request rfl fun _ => ⟨_, rfl⟩
theorem EncodedKind.read (a : Addr) (l : Nat) : EncodedKind.Statement (.read a l) := of_request rfl fun _ => ⟨_, rfl⟩
theorem EncodedKind.setBlocking (b : Bool) : EncodedKind.Statement (.setBlocking b) := of_request rfl fun _ => ⟨_, rfl⟩
theorem EncodedKind.rdsr : EncodedKind.Statement .rdsr := of_frame rfl fun _ => ⟨_, _, rfl⟩
theorem EncodedKind.wren : EncodedKind.Statement .wren := of_frame rfl fun _ => ⟨_, _, rfl⟩
theorem EncodedKind.wrdi : EncodedKind.Statement .wrdi := of_frame rfl fun _ => ⟨_, _, rfl⟩
theorem EncodedKind.wrsr (p : Protection) : EncodedKind.Statement (.wrsr p) := of_frame rfl fun _ => ⟨_, _, rfl⟩
theorem EncodedKind.byteProg (a : WireAddr) (d : Byte) : EncodedKind.Statement (.byteProg a d) :=
  of_frame rfl fun _ => ⟨_, _, rfl⟩
theorem EncodedKind.aaiFirst (a : WireAddr) (x y : Byte) : EncodedKind.Statement (.aaiFirst a x y) :=
  of_frame rfl fun _ => ⟨_, _, rfl⟩
theorem EncodedKind.aaiNext (x y : Byte) : EncodedKind.Statement (.aaiNext x y) := of_frame rfl fun _ => ⟨_, _, rfl⟩
theorem EncodedKind.chipErase : EncodedKind.Statement .chipErase := of_frame rfl fun _ => ⟨_, _, rfl⟩
theorem EncodedKind.readMem (a : WireAddr) (l : Nat) : EncodedKind.Statement (.readMem a l) :=
  of_frame rfl fun _ => ⟨_, _, rfl⟩
theorem EncodedKind.wsPrelude : EncodedKind.Statement .wsPrelude := of_frame rfl fun _ => ⟨_, _, rfl⟩

end Sys2Proof.Laws
end

