-- ==== Sys2Proof/Laws/Programs.lean ====
section
/-!
SUPPORT. What the operations' own parts can do, said once: every transaction they begin has a frame of the grammar, and every
error they raise is one the error matrix gives them.
-/

namespace Sys2Proof.Machine
/-! ### The own parts of the operations -/

/-- The frame of a transaction that is not a READ command is decoded as it stands. -/
theorem windowInstr_of_frame {s : State} (h4 : s.frame.length ≠ 4) :
    windowInstr s = decodeFrame s.cfg.wsPrelude s.frame := by
  have hd : dataExchangeFollows s = false := by
    cases hf : s.cfg.readFraming <;> simp [dataExchangeFollows, hf, isReadCommand, h4]
  simp [windowInstr, windowBytes, hd]

theorem decodeFrame_rdsr (pre : Byte) : decodeFrame pre rdsrBytes = .ok .rdsr := rfl
theorem decodeFrame_wren (pre : Byte) : decodeFrame pre wrenBytes = .ok .wren := rfl
theorem decodeFrame_wrdi (pre : Byte) : decodeFrame pre wrdiBytes = .ok .wrdi := rfl
theorem decodeFrame_chipErase (pre : Byte) : decodeFrame pre chipEraseBytes = .ok .chipErase := rfl
theorem decodeFrame_byteProg (pre : Byte) (a : WireAddr) (d : Byte) :
    (decodeFrame pre (byteProgBytes a d)).toBool = true := rfl
theorem decodeFrame_aaiFirst (pre : Byte) (a : WireAddr) (x y : Byte) :
    (decodeFrame pre (aaiFirstBytes a x y)).toBool = true := rfl
theorem decodeFrame_aaiNext (pre : Byte) (x y : Byte) : (decodeFrame pre (aaiNextBytes x y)).toBool = true := rfl
theorem decodeFrame_prelude (pre : Byte) : (decodeFrame pre (preludeBytes pre)).toBool = true := by
  simp only [preludeBytes, decodeFrame, decodeOneByte]
  repeat' split
  all_goals first | rfl | contradiction
theorem decodeFrame_wrsr (pre : Byte) (p : Protection) : (decodeFrame pre (wrsrBytes (protectionByte p))).toBool = true := by
  obtain ⟨a, b, c, d, e⟩ := p
  cases a <;> cases b <;> cases c <;> cases d <;> cases e <;> rfl

/-- A READ window with at least one data byte is the READ frame of its address and length, under both framings. -/
theorem windowInstr_of_read {s : State} {a : WireAddr} (hf : s.frame = readFrame s.cfg a s.rlen) (hl : 1 ≤ s.rlen) :
    windowInstr s = .ok (.readMem a s.rlen) := by
  have hb : windowBytes s = 0x03 :: (addrField a ++ zeros s.rlen) := by
    cases hr : s.cfg.readFraming with
    | split =>
      have hf' : s.frame = readCommand a := by rw [hf, readFrame, hr]
      have hd : dataExchangeFollows s = true := by simp only [dataExchangeFollows, hr, hf']; rfl
      rw [windowBytes, if_pos hd, hf']; rfl
    | joined =>
      have hf' : s.frame = readCommand a ++ zeros s.rlen := by rw [hf, readFrame, hr]
      have hd : dataExchangeFollows s = false := by simp only [dataExchangeFollows, hr]
      rw [windowBytes, hd, hf']; rfl
  obtain ⟨n, hn⟩ : ∃ n, s.rlen = n + 1 := ⟨s.rlen - 1, by omega⟩
  rw [windowInstr, hb, hn, zeros_succ]
  have hall : (Config.dummy :: zeros n).all (fun b => b == Config.dummy) = true := by simp [zeros]
  simp only [decodeFrame, addrField, List.cons_append, List.nil_append, decodeLonger]
  rw [if_pos hall, addrOfField_addrField]
  simp

/-- A transaction begun with a frame that is not a READ command and decodes, is one with a frame of the grammar. -/
theorem beginTxn_legal {s : State} {g : Stage} {f : List Byte} (h4 : f.length ≠ 4)
    (hd : (decodeFrame s.cfg.wsPrelude f).toBool = true) : (windowInstr (s.beginTxn g f)).toBool = true := by
  rw [windowInstr_of_frame h4]; exact hd

/-- What an operation does in VALIDATE: it begins its first transaction with a frame of the grammar, or raises an error that the
error matrix gives it, or, for `set_blocking`, writes the flag and returns. -/
theorem validate_cases (op : HostOp) (s : State) (hl : op = .read → 1 ≤ s.rlen) :
    (∃ (g : Stage) (f : List Byte), (microprogram op).validate s = s.beginTxn g f ∧ op ≠ .setBlocking ∧
      (windowInstr (s.beginTxn g f)).toBool = true) ∨
    (∃ k : OpError, (microprogram op).validate s = s.raise k ∧ mayRaise op k = true) ∨
    (op = .setBlocking ∧ (microprogram op).validate s = State.returnOk .unit { s with blocking := s.bIn }) := by
  cases op with
  | readStatus => exact .inl ⟨.main, rdsrBytes, rfl, by decide, beginTxn_legal (by decide) rfl⟩
  | writeEnable => exact .inl ⟨.main, wrenBytes, rfl, by decide, beginTxn_legal (by decide) rfl⟩
  | writeDisable => exact .inl ⟨.main, wrdiBytes, rfl, by decide, beginTxn_legal (by decide) rfl⟩
  | writeStatus => exact .inl ⟨.enable, wrenBytes, rfl, by decide, beginTxn_legal (by decide) rfl⟩
  | eraseFull => exact .inl ⟨.enable, wrenBytes, rfl, by decide, beginTxn_legal (by decide) rfl⟩
  | byteProgram =>
    by_cases ha : addressAccepted s.addr = true
    · exact .inl ⟨.enable, wrenBytes, by simp [microprogram, byteProgramProgram, ha], by decide, beginTxn_legal (by decide) rfl⟩
    · exact .inr (.inl ⟨_, by simp [microprogram, byteProgramProgram, ha]; rfl, rfl⟩)
  | aaiProgram =>
    cases hc : aaiChecks s with
    | none => exact .inl ⟨.enable, wrenBytes, by simp [microprogram, aaiProgramProgram, hc], by decide, beginTxn_legal (by decide) rfl⟩
    | some k =>
      refine .inr (.inl ⟨k, by simp [microprogram, aaiProgramProgram, hc], ?_⟩)
      unfold aaiChecks at hc
      repeat' split at hc
      all_goals first | (cases hc; rfl) | cases hc
  | read =>
    by_cases ha : addressAccepted s.addr = true
    · refine .inl ⟨.main, readFrame s.cfg (wireAddress s.cfg s.addr) s.rlen, by simp [microprogram, readProgram, ha], by decide, ?_⟩
      rw [windowInstr_of_read (a := wireAddress s.cfg s.addr) rfl (by exact hl rfl)]; rfl
    · exact .inr (.inl ⟨_, by simp [microprogram, readProgram, ha]; rfl, rfl⟩)
  | setBlocking => exact .inr (.inr ⟨rfl, rfl⟩)

/-- What can follow a transaction: another transaction with a frame of the grammar, an error that the error matrix gives the
operation, or the return. Only IDX can change beside. -/
def Continues (op : HostOp) (s t : State) : Prop :=
  (∃ (g : Stage) (f : List Byte) (n : Nat), t = State.beginTxn g f { s with idx := n } ∧
    (windowInstr (State.beginTxn g f { s with idx := n })).toBool = true) ∨
  (∃ k : OpError, t = s.raise k ∧ mayRaise op k = true) ∨ ∃ v : OpValue, t = s.returnOk v

theorem continues_begin (op : HostOp) {s : State} {n : Nat} (g : Stage) {f : List Byte} (h4 : f.length ≠ 4)
    (hd : (decodeFrame s.cfg.wsPrelude f).toBool = true) : Continues op s (State.beginTxn g f { s with idx := n }) :=
  .inl ⟨g, f, n, rfl, beginTxn_legal h4 hd⟩

theorem continues_return (op : HostOp) (s : State) (v : OpValue) : Continues op s (s.returnOk v) := .inr (.inr ⟨v, rfl⟩)

theorem continues_wait {op : HostOp} {s : State} {done : State → State} (forced : Bool) (h : Continues op s (done s)) :
    Continues op s (waitFor forced done s) := by
  unfold waitFor
  split
  · exact continues_begin (n := s.idx) op .poll (by decide) rfl
  · exact h

theorem continues_poll {op : HostOp} {s : State} {done : State → State} (h : Continues op s (done s)) :
    Continues op s (pollAgain done s) := by
  unfold pollAgain
  split
  · exact continues_begin (n := s.idx) op .poll (by decide) rfl
  · exact h

theorem continues_assert {op : HostOp} {s : State} {go : State → State} (hb : mayRaise op .busy = true)
    (h : Continues op s (go s)) : Continues op s (assertNotBusy go s) := by
  unfold assertNotBusy
  split
  · exact .inr (.inl ⟨.busy, rfl, hb⟩)
  · exact h

theorem continues_aaiChunkDone (op : HostOp) (s : State) : Continues op s (aaiChunkDone s) := by
  simp only [aaiChunkDone]
  split
  · exact continues_begin op .chunk (by simp [aaiNextFrame, aaiNextBytes]) (decodeFrame_aaiNext ..)
  · exact continues_begin op .disable (by decide) rfl

/-- What an operation does in NEXT. -/
theorem next_continues (op : HostOp) (s : State) : Continues op s ((microprogram op).next s) := by
  have hr := continues_return op s .unit
  cases op with
  | readStatus => exact continues_return ..
  | writeEnable => exact hr
  | writeDisable => exact hr
  | writeStatus =>
    simp only [microprogram, writeStatusProgram]
    split
    · exact continues_begin (n := s.idx) _ .middle (by simp [preludeBytes]) (decodeFrame_prelude _)
    · exact continues_begin (n := s.idx) _ .main (by simp [wrsrBytes]) (decodeFrame_wrsr ..)
    · exact hr
  | eraseFull =>
    simp only [microprogram, eraseFullProgram]
    split
    · exact continues_begin (n := s.idx) _ .check (by decide) rfl
    · exact continues_assert rfl (continues_begin (n := s.idx) _ .main (by decide) rfl)
    · exact continues_wait true hr
    · exact continues_poll hr
    · exact hr
  | byteProgram =>
    simp only [microprogram, byteProgramProgram]
    split
    · exact continues_begin (n := s.idx) _ .check (by decide) rfl
    · exact continues_assert rfl
        (continues_begin (n := s.idx) _ .main (by simp [byteProgFrame, byteProgBytes]) (decodeFrame_byteProg ..))
    · exact continues_wait false hr
    · exact continues_poll hr
    · exact hr
  | aaiProgram =>
    simp only [microprogram, aaiProgramProgram]
    split
    · exact continues_begin (n := s.idx) _ .check (by decide) rfl
    · exact continues_assert rfl
        (continues_begin (n := 0) _ .main (by simp [aaiFirstFrame, aaiFirstBytes]) (decodeFrame_aaiFirst ..))
    · exact continues_wait true (continues_aaiChunkDone ..)
    · exact continues_wait true (continues_aaiChunkDone ..)
    · exact continues_poll (continues_aaiChunkDone ..)
    · exact hr
  | read => exact continues_return ..
  | setBlocking => exact hr
end Sys2Proof.Machine
end

