-- ==== Sys2Proof/Tests/Slice0.lean ====
section
/-!
SUPPORT. The model's own tests, in four parts: ill-formed terms; decoding of words written out from the spec's encodings;
one step of each instruction, with the expected result taken from spec/95_test_vectors.md; and a witness for the hypotheses of
every statement that has some.
-/

namespace Sys2Proof.Tests

open Sys2Proof Sys2Proof.Machine

/-! ### Helpers -/

/-- Whether an outcome is a next state of which `p` holds. -/
def nextIs (o : Host.Outcome State Fault Refusal) (p : State → Bool) : Bool :=
  match o with
  | .next t => p t
  | .fault _ => false
  | .refused _ => false

/-- Whether an outcome is the given refusal. -/
def refusedAs (o : Host.Outcome State Fault Refusal) (r : Refusal) : Bool :=
  match o with
  | .next _ => false
  | .fault _ => false
  | .refused r' => decide (r' = r)

/-- `fail(e)`, with the error values that have a name. -/
def failure : Failure := ⟨.named, .named⟩

/-- `[..]`: an answer of `n` bytes that the block does not use. -/
def filler (n : Nat) : List Byte := List.replicate n 0xEE

/-- `[EE v]`: a status response. -/
def statusIs (v : Byte) : List Byte := [0xEE, v]

/-- `CFG`: the two events of a successful configuration. -/
def cfgTrace : List Entry := [.lineSet .hold .high none, .lineSet .wp .low none]

/-- The answers to `CFG`. -/
def cfgReplies : List Answer := [.ok [], .ok []]

/-- The block after reset, with the given answers to come. -/
def fresh (answers : List Answer) : State := { State.reset with answers := answers }

/-- The block between two operations, configured, with the given answers to come. -/
def ready (answers : List Answer) : State :=
  { State.reset with configured := true, ce := .high, wp := .low, hold := .high, answers := answers }

/-- The same, about to send a frame. -/
def atWindow (frame : List Byte) (answers : List Answer) : State :=
  { ready answers with phase := .ceLow, frame := frame }

/-- Whether a state is idle, with the given trace and the given results reported so far. -/
def endsWith (trace : List Entry) (results : List OpResult) (t : State) : Bool :=
  decide (t.phase = .idle) && decide (t.trace = trace) && decide (t.results.map Report.result = results) &&
    decide (t.answers = [])

/-- Whether the lines are as `CE/WP/HOLD` says. -/
def linesAre (ce wp hold : Level) (t : State) : Bool :=
  decide (t.ce = ce) && decide (t.wp = wp) && decide (t.hold = hold)

/-! ### Ill-formed terms (R195) -/

theorem test_wf_refuses_read_of_no_byte : Instr.wf (.read 0x10 0) = false := by decide
theorem test_wf_refuses_read_frame_of_no_byte : Instr.wf (.readMem 0x10 0) = false := by decide
theorem test_wf_accepts_read_of_one_byte : Instr.wf (.read 0x10 1) = true := by decide
theorem test_wf_accepts_any_operand : Instr.wf (.aaiProgram 0xFFFFFFFF [0x01]) = true := by decide

/-! ### Decoding: words written out from R80 and R84 to R91 -/

theorem test_decode_rdsr : decodeFrame 0x00 [0b00000101, 0b00000000] = .ok .rdsr := by decide
theorem test_decode_wren : decodeFrame 0x00 [0b00000110] = .ok .wren := by decide
theorem test_decode_wrdi : decodeFrame 0x00 [0b00000100] = .ok .wrdi := by decide
/-- Bits 7 and 3 of the status byte: the read-only bit and block 1. -/
theorem test_decode_wrsr : decodeFrame 0x00 [0b00000001, 0b10001000] = .ok (.wrsr ⟨false, true, false, false, true⟩) := by
  decide
theorem test_decode_byteProg :
    decodeFrame 0x00 [0b00000010, 0x12, 0x34, 0x56, 0x78] = .ok (.byteProg 0x123456 0x78) := by decide
theorem test_decode_aaiFirst :
    decodeFrame 0x00 [0b10101101, 0x07, 0xA1, 0x20, 0x96, 0x64] = .ok (.aaiFirst 0x07A120 0x96 0x64) := by decide
theorem test_decode_aaiNext : decodeFrame 0x00 [0b10101101, 0x44, 0x55] = .ok (.aaiNext 0x44 0x55) := by decide
theorem test_decode_chipErase : decodeFrame 0x00 [0b01100000] = .ok .chipErase := by decide
theorem test_decode_readMem :
    decodeFrame 0x00 [0b00000011, 0xFF, 0xFF, 0xFE, 0x00, 0x00, 0x00, 0x00] = .ok (.readMem 0xFFFFFE 4) := by decide
theorem test_decode_wsPrelude : decodeFrame 0x00 [0b00000000] = .ok .wsPrelude := by decide
theorem test_decode_wsPrelude_configured : decodeFrame 0x77 [0x77] = .ok .wsPrelude := by decide

theorem test_decode_rejects_bad_windows :
    decodeFrame 0x00 [] = .error .emptyFrame ∧
    decodeFrame 0x00 [0x9F] = .error (.badOpcode 0x9F) ∧
    decodeFrame 0x00 [0x00, 0x00] = .error (.badOpcode 0x00) ∧
    decodeFrame 0x00 [0x05] = .error (.badLength 0x05 1) ∧
    decodeFrame 0x00 [0x05, 0x01] = .error (.badDummy 0x05) ∧
    decodeFrame 0x00 [0x01, 0x02] = .error (.badStatusBits 0x02) ∧
    decodeFrame 0x00 [0xAD, 0x01, 0x02, 0x03] = .error (.badLength 0xAD 4) ∧
    decodeFrame 0x00 [0x03, 0x00, 0x00, 0x00] = .error .readLengthZero ∧
    decodeFrame 0x00 [0x03, 0x00, 0x00, 0x00, 0x01] = .error (.badDummy 0x03) ∧
    decodeFrame 0x00 [0x06, 0x00] = .error (.badLength 0x06 2) := by decide

theorem test_decode_requests :
    decodeRequest (Request.bare 0b0000) = .ok .readStatus ∧
    decodeRequest (Request.bare 0b0001) = .ok .writeEnable ∧
    decodeRequest (Request.bare 0b0010) = .ok .writeDisable ∧
    decodeRequest { Request.bare 0b0011 with statIn := decodeStatus 0xFF } = .ok (.writeStatus (decodeStatus 0xFF)) ∧
    decodeRequest (Request.bare 0b0100) = .ok .eraseFull ∧
    decodeRequest { Request.bare 0b0101 with addr := 0x7A120, data := 0x66 } = .ok (.byteProgram 0x7A120 0x66) ∧
    decodeRequest { Request.bare 0b0110 with addr := 0x100, buf := [0x01, 0x02] } = .ok (.aaiProgram 0x100 [0x01, 0x02]) ∧
    decodeRequest { Request.bare 0b0111 with addr := 0xFFFFFE, rlen := 4 } = .ok (.read 0xFFFFFE 4) ∧
    decodeRequest { Request.bare 0b1000 with b := true } = .ok (.setBlocking true) ∧
    decodeRequest (Request.bare 0b1001) = .error (.reservedOp 0x9) ∧
    decodeRequest (Request.bare 0b1111) = .error (.reservedOp 0xF) := by decide

/-- Rows of spec/opcode_table.json by their own numbers. -/
theorem test_table_words :
    decodeTableWord 4 0x0 = some .readStatus ∧ decodeTableWord 4 0x4 = some .eraseFull ∧
    decodeTableWord 4 0x6 = some (.aaiProgram 0x0 [0x00, 0x00]) ∧ decodeTableWord 4 0x8 = some (.setBlocking false) ∧
    decodeTableWord 8 0x06 = some .wren ∧ decodeTableWord 8 0x04 = some .wrdi ∧ decodeTableWord 8 0x00 = some .wsPrelude ∧
    decodeTableWord 8 0x8 = some (.setBlocking false) ∧
    decodeTableWord 8 0x7 = some (.read 0x0 1) ∧
    decodeTableWord 16 0x0500 = some .rdsr ∧
    decodeTableWord 16 0x0184 = some (.wrsr ⟨true, false, false, false, true⟩) ∧
    decodeTableWord 40 0x0212345678 = some (.byteProg 0x123456 0x78) ∧
    decodeTableWord 48 0xAD07A1209664 = some (.aaiFirst 0x07A120 0x96 0x64) ∧
    decodeTableWord 24 0xAD4455 = some (.aaiNext 0x44 0x55) ∧
    decodeTableWord 8 0x60 = some .chipErase ∧
    decodeTableWord 32 0x03123456 = some (.readMem 0x123456 1) ∧
    decodeTableWord 4 0x9 = none ∧ decodeTableWord 8 0x9 = none ∧ decodeTableWord 8 0x9F = none := by decide

/-- A request placed at the port, and a frame placed in FRAME, run on the very next step: the first event of either is the
configuration of the hold line. -/
theorem test_fetch_word_runs :
    nextIs (step (State.reset.withFetchWord 8 0x8)) (endsWith [] [.ok .unit]) = true ∧
    nextIs (step ((fresh [.fail failure]).withFetchWord 16 0x0500))
      (fun t => decide (t.frame = [0x05, 0x00]) && decide (t.trace = [.lineSet .hold .high (some failure.line)])) = true := by decide

/-! ### One step of each host operation (spec/95_test_vectors.md) -/

/-- P1. -/
theorem test_readStatus_first :
    nextIs (exec .readStatus (fresh (cfgReplies ++ txnAnswers (statusIs 0x02))))
      (fun t => endsWith (cfgTrace ++ txnEntries [0x05, 0x00] (statusIs 0x02)) [.ok (.status ⟨false, true, false, false, false, false, false, false⟩)] t
        && linesAre .high .low .high t && t.configured && t.blocking) = true := by decide

/-- Table 2.4: byte 0 is ignored. -/
theorem test_readStatus_ignores_byte0 :
    nextIs (exec .readStatus (ready (txnAnswers [0xFF, 0x00])))
      (endsWith (txnEntries [0x05, 0x00] [0xFF, 0x00])
        [.ok (.status ⟨false, false, false, false, false, false, false, false⟩)]) = true := by decide

/-- P10, variant a: the release's failure supersedes the exchange's. -/
theorem test_writeEnable_both_fail :
    nextIs (exec .writeEnable (fresh (cfgReplies ++ [.ok [], .fail failure, .fail failure])))
      (fun t => endsWith (cfgTrace ++ [.lineSet .ce .low none, .xfer [0x06] (.fail failure.bus), .lineSet .ce .high (some failure.line)])
        [.err (.enableLineFailure failure.line)] t && linesAre .x .low .high t) = true := by decide

/-- P10, variant d: the selection fails, then the host tries again; the lines are not configured again. -/
theorem test_writeEnable_retried :
    nextIs (exec .writeEnable (fresh (cfgReplies ++ [.fail failure])))
      (fun s => linesAre .x .low .high s && s.configured &&
        nextIs (exec .writeEnable { s with answers := txnAnswers (filler 1) })
          (endsWith (cfgTrace ++ [.lineSet .ce .low (some failure.line)] ++ txnEntries [0x06] (filler 1))
            [.err (.enableLineFailure failure.line), .ok .unit])) = true := by decide

/-- Table 2.4. -/
theorem test_writeDisable :
    nextIs (exec .writeDisable (ready (txnAnswers (filler 1)))) (endsWith (txnEntries [0x04] (filler 1)) [.ok .unit]) = true := by
  decide

/-- P7. -/
theorem test_writeStatus_all_fields :
    nextIs (exec (.writeStatus (decodeStatus 0xFF))
        (fresh (cfgReplies ++ txnAnswers (filler 1) ++ txnAnswers (filler 1) ++ txnAnswers (filler 2))))
      (endsWith (cfgTrace ++ txnEntries [0x06] (filler 1) ++ txnEntries [0x00] (filler 1) ++
        txnEntries [0x01, 0xBC] (filler 2)) [.ok .unit]) = true := by decide

/-- Table 2.4: the second exchange fails. -/
theorem test_writeStatus_prelude_fails :
    nextIs (exec (.writeStatus (decodeStatus 0xFF)) (ready (txnAnswers (filler 1) ++ [.ok [], .fail failure, .ok []])))
      (endsWith (txnEntries [0x06] (filler 1) ++ [.lineSet .ce .low none, .xfer [0x00] (.fail failure.bus), .lineSet .ce .high none])
        [.err (.transferFailure failure.bus)]) = true := by decide

/-- P6, with `blocking` 0: the wait is forced. -/
theorem test_eraseFull_waits_in_both_modes :
    nextIs (exec .eraseFull { fresh (cfgReplies ++ txnAnswers (filler 1) ++ txnAnswers (statusIs 0x02) ++ txnAnswers (filler 1) ++
        txnAnswers (statusIs 0x01) ++ txnAnswers (statusIs 0x00)) with blocking := false })
      (endsWith (cfgTrace ++ txnEntries [0x06] (filler 1) ++ txnEntries [0x05, 0x00] (statusIs 0x02) ++
        txnEntries [0x60] (filler 1) ++ txnEntries [0x05, 0x00] (statusIs 0x01) ++ txnEntries [0x05, 0x00] (statusIs 0x00))
        [.ok .unit]) = true := by decide

/-- P5. -/
theorem test_eraseFull_busy :
    nextIs (exec .eraseFull (fresh (cfgReplies ++ txnAnswers (filler 1) ++ txnAnswers (statusIs 0x03))))
      (endsWith (cfgTrace ++ txnEntries [0x06] (filler 1) ++ txnEntries [0x05, 0x00] (statusIs 0x03)) [.err .busy]) = true := by
  decide

/-- P2. -/
theorem test_byteProgram_blocking :
    nextIs (exec (.byteProgram 0x7A120 0x66) (fresh (cfgReplies ++ txnAnswers (filler 1) ++ txnAnswers (statusIs 0x02) ++
        txnAnswers (filler 5) ++ txnAnswers (statusIs 0x03) ++ txnAnswers (statusIs 0x03) ++ txnAnswers (statusIs 0x00))))
      (endsWith (cfgTrace ++ txnEntries [0x06] (filler 1) ++ txnEntries [0x05, 0x00] (statusIs 0x02) ++
        txnEntries [0x02, 0x07, 0xA1, 0x20, 0x66] (filler 5) ++ txnEntries [0x05, 0x00] (statusIs 0x03) ++
        txnEntries [0x05, 0x00] (statusIs 0x03) ++ txnEntries [0x05, 0x00] (statusIs 0x00)) [.ok .unit]) = true := by decide

/-- P3 (no poll) with the top address of P12. -/
theorem test_byteProgram_not_blocking :
    nextIs (exec (.byteProgram 0x1000000 0xAA) { ready (txnAnswers (filler 1) ++ txnAnswers (statusIs 0x02) ++
        txnAnswers (filler 5)) with blocking := false })
      (endsWith (txnEntries [0x06] (filler 1) ++ txnEntries [0x05, 0x00] (statusIs 0x02) ++
        txnEntries [0x02, 0x00, 0x00, 0x00, 0xAA] (filler 5)) [.ok .unit]) = true := by decide

/-- P4. -/
theorem test_aaiProgram_six_bytes :
    nextIs (exec (.aaiProgram 0x7A120 [0x96, 0x64, 0x44, 0x55, 0x66, 0x77])
        (fresh (cfgReplies ++ txnAnswers (filler 1) ++ txnAnswers (statusIs 0x02) ++ txnAnswers (filler 6) ++
          txnAnswers (statusIs 0x43) ++ txnAnswers (statusIs 0x42) ++ txnAnswers (filler 3) ++ txnAnswers (statusIs 0x42) ++
          txnAnswers (filler 3) ++ txnAnswers (statusIs 0x43) ++ txnAnswers (statusIs 0x42) ++ txnAnswers (filler 1))))
      (endsWith (cfgTrace ++ txnEntries [0x06] (filler 1) ++ txnEntries [0x05, 0x00] (statusIs 0x02) ++
        txnEntries [0xAD, 0x07, 0xA1, 0x20, 0x96, 0x64] (filler 6) ++ txnEntries [0x05, 0x00] (statusIs 0x43) ++
        txnEntries [0x05, 0x00] (statusIs 0x42) ++ txnEntries [0xAD, 0x44, 0x55] (filler 3) ++
        txnEntries [0x05, 0x00] (statusIs 0x42) ++ txnEntries [0xAD, 0x66, 0x77] (filler 3) ++
        txnEntries [0x05, 0x00] (statusIs 0x43) ++ txnEntries [0x05, 0x00] (statusIs 0x42) ++ txnEntries [0x04] (filler 1))
        [.ok .unit]) = true := by decide

/-- P17. -/
theorem test_aaiProgram_chunk_fails :
    nextIs (exec (.aaiProgram 0x0 [0x01, 0x02, 0x03, 0x04])
        (fresh (cfgReplies ++ txnAnswers (filler 1) ++ txnAnswers (statusIs 0x02) ++ txnAnswers (filler 6) ++
          txnAnswers (statusIs 0x42) ++ [.ok [], .fail failure, .ok []])))
      (endsWith (cfgTrace ++ txnEntries [0x06] (filler 1) ++ txnEntries [0x05, 0x00] (statusIs 0x02) ++
        txnEntries [0xAD, 0x00, 0x00, 0x00, 0x01, 0x02] (filler 6) ++ txnEntries [0x05, 0x00] (statusIs 0x42) ++
        [.lineSet .ce .low none, .xfer [0xAD, 0x03, 0x04] (.fail failure.bus), .lineSet .ce .high none])
        [.err (.transferFailure failure.bus)]) = true := by decide

/-- P8. -/
theorem test_read_split :
    nextIs (exec (.read 0xFFFFFE 4) (fresh (cfgReplies ++ [.ok [], .ok (filler 4), .ok [0xDE, 0xAD, 0xBE, 0xEF], .ok []])))
      (endsWith (cfgTrace ++ [.lineSet .ce .low none, .xfer [0x03, 0xFF, 0xFF, 0xFE] (.ok (filler 4)),
        .xfer [0x00, 0x00, 0x00, 0x00] (.ok [0xDE, 0xAD, 0xBE, 0xEF]), .lineSet .ce .high none])
        [.ok (.bytes [0xDE, 0xAD, 0xBE, 0xEF])]) = true := by decide

/-- Table 2.6, the joined framing. -/
theorem test_read_joined :
    nextIs (exec (.read 0x10 4) { ready (txnAnswers (filler 4 ++ [0xDE, 0xAD, 0xBE, 0xEF])) with
        cfg := { Config.decided with readFraming := .joined } })
      (endsWith (txnEntries [0x03, 0x00, 0x00, 0x10, 0x00, 0x00, 0x00, 0x00] (filler 4 ++ [0xDE, 0xAD, 0xBE, 0xEF]))
        [.ok (.bytes [0xDE, 0xAD, 0xBE, 0xEF])]) = true := by decide

/-- Table 2.7: `set_blocking(false)` from reset. -/
theorem test_setBlocking :
    nextIs (exec (.setBlocking false) (fresh []))
      (fun t => endsWith [] [.ok .unit] t && linesAre .x .x .x t && decide (t.configured = false) && decide (t.blocking = false))
      = true := by decide

/-- P9: validation failures leave a fresh block untouched. -/
theorem test_validation_failures :
    nextIs (exec (.byteProgram 0x1000001 0x00) (fresh [])) (endsWith [] [.err .invalidAddress]) = true ∧
    nextIs (exec (.aaiProgram 0x1000001 [0x01]) (fresh [])) (endsWith [] [.err .invalidAddress]) = true ∧
    nextIs (exec (.aaiProgram 0x0 [0x01]) (fresh [])) (endsWith [] [.err .bufferTooSmall]) = true ∧
    nextIs (exec (.aaiProgram 0x0 [0x01, 0x02, 0x03]) (fresh [])) (endsWith [] [.err .bufferUneven]) = true ∧
    nextIs (exec (.aaiProgram 0x0 []) (fresh [])) (endsWith [] [.err .bufferTooSmall]) = true ∧
    nextIs (exec (.read 0x1000001 1) (fresh []))
      (fun t => endsWith [] [.err .invalidAddress] t && linesAre .x .x .x t && decide (t.configured = false)) = true := by decide

/-- P11, variant b: the write-protect line fails once. -/
theorem test_configuration_fails :
    nextIs (exec .readStatus (fresh [.ok [], .fail failure]))
      (fun t => endsWith [.lineSet .hold .high none, .lineSet .wp .low (some failure.line)]
          [.err (.writeProtectLineFailure failure.line)] t &&
        linesAre .x .x .high t && decide (t.configured = false)) = true := by decide

/-- Without a fixed answer the operation stands at its first event (R27). -/
theorem test_operation_stands_at_first_event :
    nextIs (exec (.byteProgram 0x0 0x01) (fresh []))
      (fun t => decide (t.phase = .cfgHold) && decide (t.frame = [0x06]) && decide (t.trace = [])) = true := by decide

/-! ### One step of each wire frame -/

/-- Whether a frame sent from `ready` is the given bytes in one window. -/
def sends (i : Instr) (tx : List Byte) : Bool :=
  nextIs (exec i (ready (txnAnswers (filler tx.length))))
    (fun t => decide (t.phase = .next) && decide (t.trace = txnEntries tx (filler tx.length)) &&
      decide (t.rx = filler tx.length) && linesAre .high .low .high t)

theorem test_rdsr_sends : sends .rdsr [0x05, 0x00] = true := by decide
theorem test_wren_sends : sends .wren [0x06] = true := by decide
theorem test_wrdi_sends : sends .wrdi [0x04] = true := by decide
theorem test_wrsr_sends : sends (.wrsr ⟨true, false, false, false, true⟩) [0x01, 0x84] = true := by decide
theorem test_byteProg_sends : sends (.byteProg 0x123456 0x78) [0x02, 0x12, 0x34, 0x56, 0x78] = true := by decide
theorem test_aaiFirst_sends : sends (.aaiFirst 0x000100 0x01 0x02) [0xAD, 0x00, 0x01, 0x00, 0x01, 0x02] = true := by decide
theorem test_aaiNext_sends : sends (.aaiNext 0x03 0x04) [0xAD, 0x03, 0x04] = true := by decide
theorem test_chipErase_sends : sends .chipErase [0x60] = true := by decide
theorem test_wsPrelude_sends : sends .wsPrelude [0x00] = true := by decide

/-- P14, variant b: the data exchange of a split read fails. -/
theorem test_readMem_second_exchange_fails :
    nextIs (exec (.readMem 0x0 2) (fresh (cfgReplies ++ [.ok [], .ok (filler 4), .fail failure, .ok []])))
      (fun t => decide (t.phase = .respond) && decide (t.result = some (.err (.transferFailure failure.bus))) &&
        decide (t.trace = cfgTrace ++ [.lineSet .ce .low none, .xfer [0x03, 0x00, 0x00, 0x00] (.ok (filler 4)),
          .xfer [0x00, 0x00] (.fail failure.bus), .lineSet .ce .high none])) = true := by decide

/-- Table 2.1: the codec's samples. -/
theorem test_codec_samples :
    decodeStatus 0x43 = ⟨true, true, false, false, false, false, true, false⟩ ∧
    decodeStatus 0x9C = ⟨false, false, true, true, true, false, false, true⟩ ∧
    encodeStatus (decodeStatus 0xFF) = 0xBC ∧ encodeStatus (decodeStatus 0x55) = 0x14 ∧
    encodeStatus (decodeStatus 0xAA) = 0xA8 := by decide

/-- Table 2.2: the address field. -/
theorem test_address_samples :
    addrField (wireAddress Config.decided 0x7A120) = [0x07, 0xA1, 0x20] ∧
    addrField (wireAddress Config.decided 0x123456) = [0x12, 0x34, 0x56] ∧
    addrField (wireAddress Config.decided 0x1000000) = [0x00, 0x00, 0x00] ∧
    addressAccepted 0x1000000 = true ∧ addressAccepted 0x1000001 = false ∧ addressAccepted 0x80000000 = false := by decide

/-! ### Witnesses: the hypotheses of each statement met together, by boundary values where a clause has a range -/

theorem witness_DecodeInvertsEncode :
    Instr.wf (.readMem 0xFFFFFF 1) = true ∧ Instr.wf .wsPrelude = true ∧
    ((0x00 : Byte) ≠ 0x06 ∧ (0x00 : Byte) ≠ 0x04 ∧ (0x00 : Byte) ≠ 0x60) := by decide

theorem witness_FrameDecodeIsExact :
    decodeFrame 0x00 [0x03, 0xFF, 0xFF, 0xFF, 0x00] = .ok (.readMem 0xFFFFFF 1) ∧
    decodeFrame 0xAD [0xAD] = .ok .wsPrelude := by decide

theorem witness_RequestCodesNameOperations :
    (Request.bare 0x0).op = 0x0 ∧ (Request.bare 0x1).op = 0x1 ∧ (Request.bare 0x2).op = 0x2 ∧ (Request.bare 0x3).op = 0x3 ∧
    (Request.bare 0x4).op = 0x4 ∧ (Request.bare 0x5).op = 0x5 ∧ (Request.bare 0x6).op = 0x6 ∧
    ((Request.bare 0x7).op = 0x7 ∧ 1 ≤ (Request.bare 0x7).rlen) ∧
    (let r := { Request.bare 0x7 with rlen := 0 }; r.op = 0x7 ∧ r.rlen = 0) ∧ (Request.bare 0x8).op = 0x8 ∧
    9 ≤ (Request.bare 0x9).op.toNat ∧ 9 ≤ (Request.bare 0xF).op.toNat := by decide

theorem witness_AddressAcceptedUpToMaximum :
    (addressAccepted 0x1000000 = true ∧ (0x1000000 : Addr).toNat ≤ 16777216) ∧
    (addressAccepted 0x1000001 = false ∧ ¬ (0x1000001 : Addr).toNat ≤ 16777216) := by decide

theorem witness_AddressFieldIsBigEndian : (0xFFFFFF : Addr).toNat ≤ 0xFFFFFF ∧ (0x0 : Addr).toNat ≤ 0xFFFFFF := by decide

/-- The host's request `r` at the port of an idle block. -/
def requested (r : Request) : State := { ready [] with program := [r] }

theorem witness_StepRunsDecodedInstruction :
    ((requested (Request.bare 0x0)).phase = .idle ∧ (requested (Request.bare 0x0)).program = Request.bare 0x0 :: [] ∧
      decodeRequest (Request.bare 0x0) = .ok .readStatus) ∧
    ((atWindow [0x06] []).phase = .ceLow ∧
      decodeFrame (atWindow [0x06] []).cfg.wsPrelude (windowBytes (atWindow [0x06] [])) = .ok .wren) ∧
    (let s := { fresh [] with phase := .cfgHold, frame := [0x03, 0x00, 0x00, 0x00], rlen := 1 };
      s.phase = .cfgHold ∧ decodeFrame s.cfg.wsPrelude (windowBytes s) = .ok (.readMem 0x0 1)) ∧
    ((ready []).phase = .idle ∧ (ready []).program = []) ∧
    (let s := { atWindow [0x06] [] with phase := .xfer }; s.phase ≠ .idle ∧ s.phase ≠ .cfgHold ∧ s.phase ≠ .ceLow) := by decide

/-- A block in VALIDATE with the given operation latched. -/
def validating (op : HostOp) (a : Addr) (buf : List Byte) : State :=
  { ready [] with phase := .validate, op := op, addr := a, buf := buf }

/-- Every clause, the addresses and lengths at their boundaries. -/
theorem witness_StepInValidateBeginsTheOperation :
    (∀ op ∈ [HostOp.readStatus, .writeEnable, .writeDisable, .writeStatus, .eraseFull, .byteProgram, .aaiProgram, .read,
        .setBlocking], (validating op 0x0 []).phase = .validate ∧ (validating op 0x0 []).op = op) ∧
    (validating .byteProgram 0x1000000 []).addr.toNat ≤ 16777216 ∧
    16777216 < (validating .byteProgram 0x1000001 []).addr.toNat ∧
    (validating .aaiProgram 0x1000000 []).buf.length < 2 ∧ (validating .aaiProgram 0x0 [0x01]).buf.length < 2 ∧
    (let s := validating .aaiProgram 0x0 [0x01, 0x02, 0x03]; 2 ≤ s.buf.length ∧ s.buf.length % 2 = 1) ∧
    (let s := validating .aaiProgram 0x0 [0x01, 0x02]; 2 ≤ s.buf.length ∧ s.buf.length % 2 = 0) ∧
    (validating .read 0x1000000 []).cfg.readFraming = .split ∧
    ({ validating .read 0x1000000 [] with cfg := { Config.decided with readFraming := .joined } } : State).cfg.readFraming =
      .joined := by decide

/-- A state in NEXT, after the given transaction of the given operation, with IDX and the response. -/
def after (op : HostOp) (stage : Stage) (idx : Nat) (rx : List Byte) : State :=
  { ready [] with phase := .next, op := op, stage := stage, idx := idx, rx := rx, buf := [0x01, 0x02, 0x03, 0x04] }

/-- Every clause: the responses, both modes, both framings, and IDX at the last chunk and before it. -/
theorem witness_StepInNextContinuesTheOperation :
    (∀ op ∈ [HostOp.readStatus, .writeEnable, .writeDisable, .writeStatus, .eraseFull, .byteProgram, .aaiProgram, .read],
      ∀ g ∈ [Stage.enable, .check, .middle, .main, .chunk, .poll, .disable],
        (after op g 0 []).phase = .next ∧ (after op g 0 []).op = op ∧ (after op g 0 []).stage = g) ∧
    (after .readStatus .main 0 [0x00, 0x01]).rx = [0x00, 0x01] ∧
    statusResponse true (after .eraseFull .poll 0 [0x00, 0x01]).rx ∧
    statusResponse false (after .aaiProgram .poll 0 [0x00, 0xFE]).rx ∧
    (let s := after .aaiProgram .poll 0 [0x00, 0x00]; s.idx + 2 ≤ s.buf.length / 2) ∧
    (let s := after .aaiProgram .poll 1 [0x00, 0x00]; s.buf.length / 2 < s.idx + 2) ∧
    (after .byteProgram .main 0 []).blocking = true ∧
    ({ after .byteProgram .main 0 [] with blocking := false } : State).blocking = false ∧
    (after .read .main 0 []).cfg.readFraming = .split ∧
    ({ after .read .main 0 [] with cfg := { Config.decided with readFraming := .joined } } : State).cfg.readFraming =
      .joined := by unfold statusResponse; decide

/-- Every clause: the phases, with an answer of each kind. -/
theorem witness_StepFollowsPhaseTable :
    let at' := fun (p : Phase) (frame : List Byte) (answers : List Answer) => { atWindow frame answers with phase := p }
    (at' .cfgWp [0x06] [.ok []]).answers = .ok [] :: [] ∧ (at' .cfgWp [0x06] [.fail failure]).answers = .fail failure :: [] ∧
    (let s := at' .xfer [0x06] [.ok [0xEE]]; isReadCommand s.frame = false ∧ [(0xEE : Byte)].length = s.frame.length) ∧
    (let s := at' .xfer [0x03, 0x00, 0x00, 0x00] [.ok (filler 4)];
      s.cfg.readFraming = .split ∧ isReadCommand s.frame = true ∧ (filler 4).length = s.frame.length) ∧
    (at' .xfer [0x06] [.fail failure]).answers = .fail failure :: [] ∧
    (let s := at' .xfer2 [0x00] [.ok [0x5A]]; s.phase = .xfer2 ∧ [(0x5A : Byte)].length = s.frame.length) ∧
    (let s := at' .ceHigh [0x06] [.ok []]; s.phase = .ceHigh ∧ s.xres = .ok ∧ s.answers = .ok [] :: []) ∧
    (let s := { at' .ceHigh [0x06] [.ok []] with xres := .fail failure.bus }; s.phase = .ceHigh ∧ s.xres = .fail failure.bus) ∧
    (let s := { at' .respond [0x06] [] with result := some (.ok .unit) };
      s.phase = .respond ∧ s.result = some (.ok .unit)) := by decide

/-- `byte_program` from reset stands at its first event, and four steps run its first transaction. -/
theorem witness_StepsResumeTheOperation :
    Instr.isHostOp (.byteProgram 0x0 0x01) = true ∧
    nextIs (exec (.byteProgram 0x0 0x01) { fresh [] with answers := [] }) (fun t => t.phase.atEvent &&
      nextIs (steps 2 { t with answers := cfgReplies ++ txnAnswers (filler 1) })
        (fun u => decide (u.phase = .ceLow) && decide (u.frame = [0x05, 0x00]))) = true := by decide

theorem witness_RequestsAboveBoundAreRefused :
    let s := { fresh [] with cfg := { Config.decided with lMax := some 4, bufMax := some 2 } }
    s.phase = .idle ∧ 1 ≤ 5 ∧ s.cfg.lMax = some 4 ∧ 4 < 5 ∧ s.cfg.bufMax = some 2 ∧
    2 < [(0x01 : Byte), 0x02, 0x03].length ∧ s.cfg.admits (.read 0x0 4) = true ∧
    s.cfg.admits (.aaiProgram 0x0 [0x01, 0x02]) = true := by decide

theorem witness_ReservedCodesAreRefused :
    (requested (Request.bare 0x9)).phase = .idle ∧ (requested (Request.bare 0x9)).program = Request.bare 0x9 :: [] ∧
    9 ≤ (Request.bare 0x9).op.toNat ∧ 9 ≤ (Request.bare 0xF).op.toNat := by decide

theorem witness_ZeroLengthReadIsRefused :
    let r := { Request.bare 0x7 with rlen := 0 }
    (requested r).phase = .idle ∧ (requested r).program = r :: [] ∧ r.op = 0x7 ∧ r.rlen = 0 := by decide

theorem witness_HostOpOutsideIdleIsRefused :
    Instr.isHostOp (.read 0x0 1) = true ∧ Instr.wf (.read 0x0 1) = true ∧ (atWindow [0x06] []).phase ≠ .idle := by decide

/-- A step with an event, and a step with none. -/
theorem witness_OneEventPerStep :
    (let s := { atWindow [0x06] [.ok [], .ok (filler 1)] with phase := .xfer };
      (s.phase ≠ .idle ∧ s.phase ≠ .cfgHold ∧ s.phase ≠ .ceLow) ∧ nextIs (step s) (fun t => decide (t.trace.length = 1)) = true) ∧
    (let s := requested (Request.bare 0x0);
      s.answers = [] ∧ nextIs (step s) (fun t => decide (t.trace = s.trace)) = true) := by decide

theorem witness_PlainFrameCompletes :
    let s := fresh (cfgReplies ++ txnAnswers (filler 5) ++ [.fail failure])
    Instr.isPlainFrame (.byteProg 0xFFFFFF 0xFF) = true ∧
    encode s.cfg.wsPrelude (.byteProg 0xFFFFFF 0xFF) = .frame [0x02, 0xFF, 0xFF, 0xFF, 0xFF] ∧
    (filler 5).length = [(0x02 : Byte), 0xFF, 0xFF, 0xFF, 0xFF].length ∧
    s.answers = configAnswers s ++ txnAnswers (filler 5) ++ [.fail failure] := by decide

theorem witness_ReadFrameCompletes :
    (let s := ready ([.ok [], .ok (filler 4), .ok (filler 1), .ok []] ++ []);
      1 ≤ 1 ∧ s.cfg.readFraming = .split ∧ (filler 4).length = 4 ∧ (filler 1).length = 1 ∧
      s.answers = configAnswers s ++ [.ok [], .ok (filler 4), .ok (filler 1), .ok []] ++ []) ∧
    (let s := { fresh (cfgReplies ++ txnAnswers (filler 5)) with cfg := { Config.decided with readFraming := .joined } };
      1 ≤ 1 ∧ s.cfg.readFraming = .joined ∧ (filler 5).length = 4 + 1 ∧
      s.answers = configAnswers s ++ txnAnswers (filler 5) ++ []) := by decide

/-- In a later transaction, and in the one that configures the lines. -/
theorem witness_TransactionFailurePrecedence :
    Instr.isPlainFrame .rdsr = true ∧ encode (ready []).cfg.wsPrelude .rdsr = .frame [0x05, 0x00] ∧
    (filler 2).length = [(0x05 : Byte), 0x00].length ∧
    (∀ window ∈ [[.ok [], .ok (filler 2), .ok []], [.ok [], .ok (filler 2), .fail failure], [.ok [], .fail failure, .ok []],
        [.ok [], .fail failure, .fail failure]],
      (ready window).answers = configAnswers (ready window) ++ window ++ [] ∧
      (fresh (cfgReplies ++ window)).answers = configAnswers (fresh (cfgReplies ++ window)) ++ window ++ []) := by decide

theorem witness_FailedAssertionEndsTransaction :
    Instr.isHostOp (.readMem 0x0 1) = false ∧ Instr.wf (.readMem 0x0 1) = true ∧
    (ready [.fail failure]).answers = configAnswers (ready [.fail failure]) ++ [.fail failure] ++ [] ∧
    (fresh (cfgReplies ++ [.fail failure])).answers =
      configAnswers (fresh (cfgReplies ++ [.fail failure])) ++ [.fail failure] ++ [] := by decide

theorem witness_ConfigurationFailures :
    Instr.isHostOp .wsPrelude = false ∧ Instr.wf .wsPrelude = true ∧ (fresh [.fail failure]).configured = false ∧
    (fresh [.fail failure]).answers = .fail failure :: [] ∧
    (fresh [.ok [], .fail failure]).answers = .ok [] :: .fail failure :: [] := by decide

theorem witness_SplitReadFailures :
    1 ≤ 1 ∧ (ready []).cfg.readFraming = .split ∧ (fresh []).cfg.readFraming = .split ∧ (filler 4).length = 4 ∧
    (filler 1).length = 1 ∧
    (∀ window ∈ [[.ok [], .fail failure, .ok []], [.ok [], .ok (filler 4), .fail failure, .ok []],
        [.ok [], .fail failure, .fail failure],
        [.ok [], .ok (filler 4), .fail failure, .fail failure], [.ok [], .ok (filler 4), .ok (filler 1), .fail failure]],
      (ready window).answers = configAnswers (ready window) ++ window ++ [] ∧
      (fresh (cfgReplies ++ window)).answers = configAnswers (fresh (cfgReplies ++ window)) ++ window ++ []) := by decide

theorem witness_JoinedReadFailures :
    let joined := fun s : State => { s with cfg := { Config.decided with readFraming := .joined } }
    1 ≤ 1 ∧ (joined (ready [])).cfg.readFraming = .joined ∧ (filler 5).length = 4 + 1 ∧
    (∀ window ∈ [[.ok [], .fail failure, .ok []], [.ok [], .fail failure, .fail failure], [.ok [], .ok (filler 5), .fail failure]],
      (joined (ready window)).answers = configAnswers (joined (ready window)) ++ window ++ [] ∧
      (joined (fresh (cfgReplies ++ window))).answers =
        configAnswers (joined (fresh (cfgReplies ++ window))) ++ window ++ []) := by decide

theorem witness_WireFrameLeavesTheRest :
    Instr.isHostOp (.readMem 0x0 1) = false ∧ nextIs (exec (.readMem 0x0 1) (ready [.ok []])) (fun t => decide (t.rlen = 1)) = true ∧
    Instr.isHostOp .wren = false ∧ nextIs (exec .wren (ready [.ok []])) (fun t => decide (t.phase = .xfer)) = true := by decide

theorem witness_ReadStatusCompletes :
    let s := fresh (cfgReplies ++ txnAnswers [0xEE, 0x02])
    s.phase = .idle ∧ s.answers = configAnswers s ++ txnAnswers [0xEE, 0x02] ++ [] := by decide

theorem witness_LatchOperationsComplete :
    let s := ready (txnAnswers (filler 1) ++ [.fail failure])
    s.phase = .idle ∧ (filler 1).length = 1 ∧ s.answers = configAnswers s ++ txnAnswers (filler 1) ++ [.fail failure] := by decide

theorem witness_WriteStatusCompletes :
    let s := fresh (cfgReplies ++ (txnAnswers (filler 1) ++ txnAnswers (filler 1) ++ txnAnswers (filler 2)))
    s.phase = .idle ∧ (filler 1).length = 1 ∧ (filler 1).length = 1 ∧ (filler 2).length = 2 ∧
    s.answers = configAnswers s ++ (txnAnswers (filler 1) ++ txnAnswers (filler 1) ++ txnAnswers (filler 2)) ++ [] := by decide

theorem witness_statusResponse (b : Bool) (v : Byte) (h : v.getLsbD 0 = b) : statusResponse b (statusIs v) := ⟨rfl, h⟩

theorem witness_waitResponses : waitResponses [statusIs 0x03, statusIs 0x01] (statusIs 0x00) :=
  ⟨by simp [statusResponse, statusIs], rfl, rfl⟩

theorem witness_EraseFullCompletes :
    let s := fresh (cfgReplies ++ (txnAnswers (filler 1) ++ txnAnswers (statusIs 0x02) ++ txnAnswers (filler 1) ++
      waitAnswers [statusIs 0x03, statusIs 0x01] (statusIs 0x00)))
    s.phase = .idle ∧ (filler 1).length = 1 ∧ statusResponse false (statusIs 0x02) ∧ (filler 1).length = 1 ∧
    waitResponses [statusIs 0x03, statusIs 0x01] (statusIs 0x00) ∧
    s.answers = configAnswers s ++ (txnAnswers (filler 1) ++ txnAnswers (statusIs 0x02) ++ txnAnswers (filler 1) ++
      waitAnswers [statusIs 0x03, statusIs 0x01] (statusIs 0x00)) ++ [] :=
  ⟨rfl, rfl, witness_statusResponse _ _ rfl, rfl, witness_waitResponses, by decide⟩

/-- Both clauses, at the largest accepted address. -/
theorem witness_ByteProgramCompletesInBothModes :
    (let s := ready (txnAnswers (filler 1) ++ txnAnswers (statusIs 0x02) ++ txnAnswers (filler 5) ++
        waitAnswers [statusIs 0x03, statusIs 0x01] (statusIs 0x00));
      s.phase = .idle ∧ (0x1000000 : Addr).toNat ≤ 16777216 ∧ (filler 1).length = 1 ∧ statusResponse false (statusIs 0x02) ∧
      (filler 5).length = 5 ∧ s.blocking = true ∧ waitResponses [statusIs 0x03, statusIs 0x01] (statusIs 0x00) ∧
      s.answers = configAnswers s ++ (txnAnswers (filler 1) ++ txnAnswers (statusIs 0x02) ++ txnAnswers (filler 5) ++
        waitAnswers [statusIs 0x03, statusIs 0x01] (statusIs 0x00)) ++ []) ∧
    (let s := { ready (txnAnswers (filler 1) ++ txnAnswers (statusIs 0x02) ++ txnAnswers (filler 5)) with blocking := false };
      s.phase = .idle ∧ s.blocking = false ∧
      s.answers = configAnswers s ++ (txnAnswers (filler 1) ++ txnAnswers (statusIs 0x02) ++ txnAnswers (filler 5)) ++ []) :=
  ⟨⟨rfl, by decide, rfl, witness_statusResponse _ _ rfl, rfl, rfl, witness_waitResponses, by decide⟩, rfl, rfl, by decide⟩

/-- The first chunk's wait of `aai_program`, and a later chunk's. -/
def chunkRuns : List ChunkRun := [⟨filler 6, [statusIs 0x43], statusIs 0x42⟩, ⟨filler 3, [], statusIs 0x42⟩]

theorem witness_aaiRunsFit : aaiRunsFit Config.decided 0x100 [0x01, 0x02, 0x03, 0x04] chunkRuns := by
  intro i c h
  match i, h with
  | 0, h =>
    cases h
    exact ⟨rfl, by simp [statusResponse, statusIs], rfl, rfl⟩
  | 1, h =>
    cases h
    exact ⟨rfl, by simp, rfl, rfl⟩

theorem witness_AaiProgramCompletes :
    let s := ready (txnAnswers (filler 1) ++ txnAnswers (statusIs 0x02) ++ chunkRuns.flatMap ChunkRun.answers ++
      txnAnswers (filler 1))
    let buf : List Byte := [0x01, 0x02, 0x03, 0x04]
    s.phase = .idle ∧ s.cfg.admits (.aaiProgram 0x100 buf) = true ∧ (0x100 : Addr).toNat ≤ 16777216 ∧ 2 ≤ buf.length ∧
    buf.length % 2 = 0 ∧ (filler 1).length = 1 ∧ statusResponse false (statusIs 0x02) ∧ (filler 1).length = 1 ∧ chunkRuns.length = buf.length / 2 ∧
    aaiRunsFit s.cfg 0x100 buf chunkRuns ∧
    s.answers = configAnswers s ++ (txnAnswers (filler 1) ++ txnAnswers (statusIs 0x02) ++
      chunkRuns.flatMap ChunkRun.answers ++ txnAnswers (filler 1)) ++ [] :=
  ⟨rfl, rfl, by decide, by decide, rfl, rfl, witness_statusResponse _ _ rfl, rfl, rfl, witness_aaiRunsFit, by decide⟩

theorem witness_ReadCompletes :
    (let s := fresh (cfgReplies ++ [.ok [], .ok (filler 4), .ok [0x5A], .ok []]);
      s.phase = .idle ∧ (0x1000000 : Addr).toNat ≤ 16777216 ∧ s.cfg.admits (.read 0x1000000 1) = true ∧ 1 ≤ 1 ∧
      (filler 4).length = 4 ∧ [(0x5A : Byte)].length = 1 ∧
      s.cfg.readFraming = .split ∧ s.answers = configAnswers s ++ [.ok [], .ok (filler 4), .ok [0x5A], .ok []] ++ []) ∧
    (let s := { ready (txnAnswers (filler 4 ++ [0x5A])) with cfg := { Config.decided with readFraming := .joined } };
      s.phase = .idle ∧ s.cfg.readFraming = .joined ∧
      s.answers = configAnswers s ++ txnAnswers (filler 4 ++ [0x5A]) ++ []) := by decide

theorem witness_SetBlockingCompletes : (fresh []).phase = .idle ∧ (ready []).phase = .idle := by decide

theorem witness_AcceptanceLatchesOperands :
    (fresh []).phase = .idle ∧ 1 ≤ 1 ∧ (fresh []).cfg.admits (.aaiProgram 0x1000001 [0x01]) = true ∧
    (fresh []).cfg.admits (.read 0x0 1) = true := by decide

theorem witness_HostOperationLeavesTheRest :
    Instr.isHostOp (.setBlocking false) = true ∧ nextIs (exec (.setBlocking false) (fresh [])) (fun _ => true) = true ∧
    Instr.isHostOp .eraseFull = true ∧ nextIs (exec .eraseFull (fresh [.fail failure])) (fun _ => true) = true := by decide

theorem witness_LatchesAreNeverReadBeforeLoaded :
    let s := ready (txnAnswers (filler 1))
    let u := { s with addr := 0xFF, buf := [0x01], frame := [0x60], rx := [0x01], xres := .fail failure.bus, idx := 7, rlen := 0 }
    Instr.isHostOp .writeEnable = true ∧ s.phase = .idle ∧ SameButRegisters s u ∧
    nextIs (exec .writeEnable s) (fun t => decide (t.phase = .idle)) = true :=
  ⟨rfl, rfl, by simp [SameButRegisters], by decide⟩

theorem witness_OperationWithoutTransactionKeepsWorkRegisters :
    (∀ i ∈ [Instr.byteProgram 0x1000001 0x0, .aaiProgram 0x0 [], .aaiProgram 0x0 [0x01], .aaiProgram 0x1000001 [0x01, 0x02],
        .read 0x1000001 1, .setBlocking true],
      Instr.isHostOp i = true ∧ Instr.reachesTransaction i = false ∧ nextIs (exec i (fresh [])) (fun _ => true) = true) := by decide

theorem witness_InvalidAddressBeforeAnyEvent :
    (fresh []).phase = .idle ∧ 16777216 < (0x1000001 : Addr).toNat ∧ 16777216 < (0xFFFFFFFF : Addr).toNat ∧ 1 ≤ 1 ∧
    (fresh []).cfg.admits (.aaiProgram 0x1000001 [0x01]) = true ∧ (fresh []).cfg.admits (.read 0xFFFFFFFF 1) = true := by decide

/-- The three clauses, each at a boundary: the first address too large with an odd buffer, an empty buffer and one of one byte at
the largest accepted address, a buffer of three bytes. -/
theorem witness_AaiOperandChecksInOrder :
    (fresh []).phase = .idle ∧ (∀ buf ∈ [[], [(0x01 : Byte)], [0x01, 0x02, 0x03]],
      (fresh []).cfg.admits (.aaiProgram 0x1000000 buf) = true) ∧ 16777216 < (0x1000001 : Addr).toNat ∧
    ((0x1000000 : Addr).toNat ≤ 16777216 ∧ ([] : List Byte).length < 2 ∧ [(0x01 : Byte)].length < 2) ∧
    ((0x1000000 : Addr).toNat ≤ 16777216 ∧ 2 ≤ [(0x01 : Byte), 0x02, 0x03].length ∧
      [(0x01 : Byte), 0x02, 0x03].length % 2 = 1) := by decide

theorem witness_BusyChipEndsOperationBeforeItsFrame :
    let s := ready (txnAnswers (filler 1) ++ txnAnswers (statusIs 0x01))
    s.phase = .idle ∧ (0x1000000 : Addr).toNat ≤ 16777216 ∧ 2 ≤ [(0x11 : Byte), 0x22].length ∧
    [(0x11 : Byte), 0x22].length % 2 = 0 ∧ (filler 1).length = 1 ∧ statusResponse true (statusIs 0x01) ∧
    s.cfg.admits (.aaiProgram 0x1000000 [0x11, 0x22]) = true ∧
    s.answers = configAnswers s ++ (txnAnswers (filler 1) ++ txnAnswers (statusIs 0x01)) ++ [] :=
  ⟨rfl, by decide, by decide, rfl, rfl, witness_statusResponse _ _ rfl, rfl, by decide⟩

theorem witness_FirstLineFailureEndsOperation :
    Instr.reachesTransaction .readStatus = true ∧ Instr.reachesTransaction (.aaiProgram 0x1000000 [0x11, 0x22]) = true ∧
    Instr.reachesTransaction (.read 0x1000000 1) = true ∧ (fresh []).phase = .idle ∧ (ready []).phase = .idle ∧
    (fresh [.fail failure]).configured = false ∧ (fresh [.fail failure]).answers = .fail failure :: [] ∧
    (fresh [.ok [], .fail failure]).answers = .ok [] :: .fail failure :: [] ∧
    (ready []).cfg.admits (.aaiProgram 0x1000000 [0x11, 0x22]) = true ∧
    (ready [.fail failure]).answers = configAnswers (ready [.fail failure]) ++ [.fail failure] ++ [] ∧
    (fresh (cfgReplies ++ [.fail failure])).answers =
      configAnswers (fresh (cfgReplies ++ [.fail failure])) ++ [.fail failure] ++ [] := by decide

/-- A failed transaction of each of the four kinds, for a frame of two bytes. -/
def failures : List TxnFailure := [.assertion failure, .exchange failure, .exchangeAndRelease failure failure, .release (filler 2) failure]

theorem witness_FailedPollEndsByteProgram :
    ∀ f ∈ failures,
      let s := ready (txnAnswers (filler 1) ++ txnAnswers (statusIs 0x02) ++ txnAnswers (filler 5) ++
        pollAnswers [statusIs 0x01] ++ f.answers)
      s.phase = .idle ∧ s.blocking = true ∧ (0x0 : Addr).toNat ≤ 16777216 ∧ (filler 1).length = 1 ∧
      statusResponse false (statusIs 0x02) ∧ (filler 5).length = 5 ∧ (∀ rx ∈ [statusIs 0x01], statusResponse true rx) ∧
      f.fits [0x05, 0x00] = true ∧
      s.answers = configAnswers s ++ (txnAnswers (filler 1) ++ txnAnswers (statusIs 0x02) ++ txnAnswers (filler 5) ++
        pollAnswers [statusIs 0x01] ++ f.answers) ++ [] := by
  intro f hf
  refine ⟨rfl, rfl, by decide, rfl, witness_statusResponse _ _ rfl, rfl, by simp [statusResponse, statusIs], ?_,
    by simp [ready, configAnswers]⟩
  revert f
  decide

theorem witness_aaiRunsFit_prefix : aaiRunsFit Config.decided 0x100 [0x01, 0x02, 0x03, 0x04] (chunkRuns.take 1) := by
  intro i c h
  match i, h with
  | 0, h =>
    cases h
    exact ⟨rfl, by simp [statusResponse, statusIs], rfl, rfl⟩

/-- Both clauses, the second after one complete chunk. -/
theorem witness_FailedPollEndsEraseAndAai :
    (let s := ready (txnAnswers (filler 1) ++ txnAnswers (statusIs 0x02) ++ txnAnswers (filler 1) ++
        pollAnswers [statusIs 0x01] ++ (TxnFailure.release (filler 2) failure).answers);
      s.phase = .idle ∧ (filler 1).length = 1 ∧ statusResponse false (statusIs 0x02) ∧
      (∀ rx ∈ [statusIs 0x01], statusResponse true rx) ∧ (TxnFailure.release (filler 2) failure).fits [0x05, 0x00] = true ∧
      s.answers = configAnswers s ++ (txnAnswers (filler 1) ++ txnAnswers (statusIs 0x02) ++ txnAnswers (filler 1) ++
        pollAnswers [statusIs 0x01] ++ (TxnFailure.release (filler 2) failure).answers) ++ []) ∧
    (let runs := chunkRuns.take 1;
      let buf : List Byte := [0x01, 0x02, 0x03, 0x04];
      let s := ready (txnAnswers (filler 1) ++ txnAnswers (statusIs 0x02) ++ runs.flatMap ChunkRun.answers ++
        txnAnswers (filler 3) ++ pollAnswers [] ++ (TxnFailure.assertion failure).answers);
      s.phase = .idle ∧ s.cfg.admits (.aaiProgram 0x100 buf) = true ∧ (0x100 : Addr).toNat ≤ 16777216 ∧ 2 ≤ buf.length ∧
      buf.length % 2 = 0 ∧ runs.length < buf.length / 2 ∧ aaiRunsFit s.cfg 0x100 buf runs ∧
      (filler 3).length = (aaiChunkFrame s.cfg 0x100 buf runs.length).length ∧
      (TxnFailure.assertion failure).fits [0x05, 0x00] = true ∧
      s.answers = configAnswers s ++ (txnAnswers (filler 1) ++ txnAnswers (statusIs 0x02) ++
        runs.flatMap ChunkRun.answers ++ txnAnswers (filler 3) ++ pollAnswers [] ++ (TxnFailure.assertion failure).answers) ++ []) :=
  ⟨⟨rfl, rfl, witness_statusResponse _ _ rfl, by simp [statusResponse, statusIs], by decide, by decide⟩,
    rfl, rfl, by decide, by decide, rfl, by decide, witness_aaiRunsFit_prefix, by decide, rfl, by decide⟩

/-- Both clauses: the second chunk fails, and the closing WRDI fails. -/
theorem witness_FailedChunkSendsNoWriteDisable :
    (let runs := chunkRuns.take 1;
      let buf : List Byte := [0x01, 0x02, 0x03, 0x04];
      let s := ready (txnAnswers (filler 1) ++ txnAnswers (statusIs 0x02) ++ runs.flatMap ChunkRun.answers ++
        (TxnFailure.release (filler 3) failure).answers);
      s.phase = .idle ∧ s.cfg.admits (.aaiProgram 0x100 buf) = true ∧ (0x100 : Addr).toNat ≤ 16777216 ∧ 2 ≤ buf.length ∧
      buf.length % 2 = 0 ∧ (filler 1).length = 1 ∧ statusResponse false (statusIs 0x02) ∧ runs.length < buf.length / 2 ∧
      aaiRunsFit s.cfg 0x100 buf runs ∧
      (TxnFailure.release (filler 3) failure).fits (aaiChunkFrame s.cfg 0x100 buf runs.length) = true ∧
      s.answers = configAnswers s ++ (txnAnswers (filler 1) ++ txnAnswers (statusIs 0x02) ++
        runs.flatMap ChunkRun.answers ++ (TxnFailure.release (filler 3) failure).answers) ++ []) ∧
    (let buf : List Byte := [0x01, 0x02, 0x03, 0x04];
      let s := ready (txnAnswers (filler 1) ++ txnAnswers (statusIs 0x02) ++ chunkRuns.flatMap ChunkRun.answers ++
        (TxnFailure.exchange failure).answers);
      s.phase = .idle ∧ chunkRuns.length = buf.length / 2 ∧ aaiRunsFit s.cfg 0x100 buf chunkRuns ∧
      (TxnFailure.exchange failure).fits [0x04] = true ∧
      s.answers = configAnswers s ++ (txnAnswers (filler 1) ++ txnAnswers (statusIs 0x02) ++
        chunkRuns.flatMap ChunkRun.answers ++ (TxnFailure.exchange failure).answers) ++ []) :=
  ⟨⟨rfl, rfl, by decide, by decide, rfl, rfl, witness_statusResponse _ _ rfl, by decide, witness_aaiRunsFit_prefix, by decide,
    by decide⟩, rfl, rfl, witness_aaiRunsFit, rfl, by decide⟩

/-- The three clauses: `erase_full`, a blocking `byte_program`, and `aai_program` after its first chunk and after a later one. -/
theorem witness_WaitHasNoBound :
    (let s := ready (txnAnswers (filler 1) ++ txnAnswers (statusIs 0x02) ++ txnAnswers (filler 1) ++ pollAnswers [statusIs 0x01]);
      s.phase = .idle ∧ (filler 1).length = 1 ∧ statusResponse false (statusIs 0x02) ∧
      (∀ rx ∈ [statusIs 0x01], statusResponse true rx) ∧
      s.answers = configAnswers s ++ (txnAnswers (filler 1) ++ txnAnswers (statusIs 0x02) ++ txnAnswers (filler 1) ++
        pollAnswers [statusIs 0x01])) ∧
    (let s := ready (txnAnswers (filler 1) ++ txnAnswers (statusIs 0x02) ++ txnAnswers (filler 5) ++ pollAnswers [statusIs 0x01]);
      s.phase = .idle ∧ (filler 5).length = 5 ∧ s.blocking = true ∧ (0x1000000 : Addr).toNat ≤ 16777216 ∧
      s.answers = configAnswers s ++ (txnAnswers (filler 1) ++ txnAnswers (statusIs 0x02) ++ txnAnswers (filler 5) ++
        pollAnswers [statusIs 0x01])) ∧
    (∀ n ∈ [0, 1],
      let runs := chunkRuns.take n
      let buf : List Byte := [0x01, 0x02, 0x03, 0x04]
      let rx3 := filler (if n = 0 then 6 else 3)
      let s := ready (txnAnswers (filler 1) ++ txnAnswers (statusIs 0x02) ++ runs.flatMap ChunkRun.answers ++
        txnAnswers rx3 ++ pollAnswers [statusIs 0x43])
      s.phase = .idle ∧ s.cfg.admits (.aaiProgram 0x100 buf) = true ∧ (0x100 : Addr).toNat ≤ 16777216 ∧ 2 ≤ buf.length ∧
      buf.length % 2 = 0 ∧ runs.length < buf.length / 2 ∧
      rx3.length = (aaiChunkFrame s.cfg 0x100 buf runs.length).length ∧
      s.answers = configAnswers s ++ (txnAnswers (filler 1) ++ txnAnswers (statusIs 0x02) ++
        runs.flatMap ChunkRun.answers ++ txnAnswers rx3 ++ pollAnswers [statusIs 0x43])) :=
  ⟨⟨rfl, rfl, witness_statusResponse _ _ rfl, by simp [statusResponse, statusIs], by decide⟩, ⟨rfl, rfl, rfl, by decide,
    by decide⟩, by decide⟩

/-- The chunks that `witness_WaitHasNoBound` takes fit: none, or the first. -/
theorem witness_WaitHasNoBound_fits :
    aaiRunsFit Config.decided 0x100 [0x01, 0x02, 0x03, 0x04] (chunkRuns.take 0) ∧
    aaiRunsFit Config.decided 0x100 [0x01, 0x02, 0x03, 0x04] (chunkRuns.take 1) ∧ statusResponse true (statusIs 0x43) :=
  ⟨by intro i c h; simp at h, witness_aaiRunsFit_prefix, witness_statusResponse _ _ rfl⟩

theorem witness_BlockingSteersByteProgramOnly :
    Instr.isHostOp .eraseFull = true ∧
    nextIs (exec .eraseFull (ready (txnAnswers (filler 1)))) (fun t => decide (t.frame = [0x05, 0x00])) = true := by decide

/-- Renamings that make all error values one. -/
theorem witness_PayloadsAreNeverInspected :
    let s := ready [.ok (filler 6), .fail failure, .fail failure]
    Instr.isHostOp .writeEnable = true ∧
    nextIs (exec .writeEnable s) (fun t => decide ((t.rename (fun _ => .named) (fun _ => .named)).result =
      some (.err (.enableLineFailure failure.line)))) = true := by decide

theorem witness_fullResponses : fullResponses (.read 0x0 2) [.ok (filler 6), .fail failure] := by
  intro rx h
  simp at h
  subst h
  exact ⟨by decide, fun a l h => by cases h; decide⟩

/-- The answers of the first, and some that hold a response. -/
theorem witness_fullResponses_writeEnable : fullResponses .writeEnable [.ok (filler 6), .fail failure, .fail failure] := by
  intro rx h
  simp at h
  subst h
  exact ⟨by decide, fun a l h => by cases h⟩

/-- A step that changes `blocking`, as the statement's last clause has it, and one that is in progress. -/
theorem witness_StepOnlyExtends :
    (let s := requested { Request.bare 0x8 with b := false };
      nextIs (step s) (fun t => decide (t.blocking ≠ s.blocking)) = true) ∧
    (let s := { ready [] with phase := .validate, op := .setBlocking, bIn := false };
      nextIs (step s) (fun t => decide (t.blocking ≠ s.blocking)) = true) := by decide

/-- A configured block about to select the chip for a WREN frame, all of whose invariant holds. -/
def selecting : State := { atWindow [0x06] [.ok []] with
  trace := cfgTrace ++ txnEntries [0x04] [0xEE], program := [Request.bare 0x0] }

theorem witness_selecting_inv : Inv selecting where
  phaseOk := by intro b h; cases h; rfl
  configOk := ⟨by decide, fun h => (by cases h)⟩
  linesOk := ⟨fun _ => ⟨rfl, rfl⟩, fun h => (by cases h), fun h => by simp [selecting, atWindow] at h⟩
  cleanLinesOk := fun _ => ⟨fun h => (by cases h), fun _ _ => .inr rfl, fun _ _ => rfl⟩
  frameOk := ⟨fun _ => by decide, fun h => (by cases h), fun h => by simp [selecting, atWindow] at h, fun h => (by cases h)⟩
  resultOk := ⟨fun h => (by cases h), fun h => (by cases h)⟩
  traceOk := ⟨⟨.closed, by decide, by decide⟩, by decide⟩

theorem witness_EveryStepKeepsInvariant :
    Inv selecting ∧ selecting.configured = true ∧ nextIs (step selecting) (fun t => decide (t.phase = .xfer)) = true :=
  ⟨witness_selecting_inv, rfl, by decide⟩

/-- The block in RESPOND, about to report an error, all of whose invariant holds. -/
def responding : State := { ready [] with
  phase := .respond, op := .eraseFull, result := some (.err .busy), trace := cfgTrace ++ txnEntries [0x05, 0x00] [0xEE, 0x01] }

theorem witness_responding_inv : Inv responding where
  phaseOk := by intro b h; cases h
  configOk := ⟨by decide, fun h => (by cases h)⟩
  linesOk := ⟨fun _ => ⟨rfl, rfl⟩, fun h => (by cases h), fun h => by simp [responding] at h⟩
  cleanLinesOk := fun _ => ⟨fun h => (by cases h), fun _ h => (by cases h), fun _ _ => rfl⟩
  frameOk := ⟨fun h => by simp [responding] at h, fun h => (by cases h), fun h => by simp [responding] at h,
    fun h => (by cases h)⟩
  resultOk := ⟨fun _ => ⟨_, rfl, fun k h => by cases h; rfl⟩, fun h => (by cases h)⟩
  traceOk := ⟨⟨.closed, by decide, by decide⟩, by decide⟩

theorem witness_ResultsObeyErrorMatrix :
    Inv responding ∧
    nextIs (step responding) (fun t => decide (t.results = responding.results ++ [⟨.err .busy, true, true⟩])) = true :=
  ⟨witness_responding_inv, by decide⟩

theorem witness_ConfiguredLinesAreLeftAlone :
    Inv selecting ∧ selecting.configured = true ∧
    nextIs (step selecting) (fun t => decide (t.trace = selecting.trace ++ [.lineSet .ce .low none])) = true :=
  ⟨witness_selecting_inv, rfl, by decide⟩

theorem witness_OnlyIllegalRequestsStop : Inv selecting := witness_selecting_inv

theorem witness_PhaseMachineAgreesWithPseudocode :
    (ready (txnAnswers (filler 1))).phase = .idle ∧ Instr.wf .writeEnable = true ∧
    (ready (txnAnswers (filler 1))).cfg.admits .writeEnable = true ∧
    (Pseudo.operation .writeEnable (Pseudo.worldOf (ready (txnAnswers (filler 1))))).isSome = true := by decide

end Sys2Proof.Tests
end

section
/-!
PROOFS. The law of the status codec: `encode` after `decode` (R113).
-/

namespace Sys2Proof.Machine

/-- Putting bit n of a byte back in its place masks the byte with the n-th power of two. -/
theorem bitAt_getLsbD (v : Byte) (n : Nat) : bitAt (v.getLsbD n) n = v &&& BitVec.twoPow 8 n :=
  (BitVec.and_twoPow v n).symm

/-- `encode` reads exactly the five fields that `decode` takes from the writable bits (R94, R111). -/
theorem protectionOf_decodeStatus (v : Byte) : protectionOf (decodeStatus v) = protectionOfByte v := rfl

/-- The byte of a byte's five writable bits is that byte under their mask; on the bytes that meet the mask it is
`protectionByte_protectionOfByte`. -/
theorem protectionByte_protectionOfByte_eq_and (v : Byte) : protectionByte (protectionOfByte v) = v &&& 0xBC := by
  have mask : BitVec.twoPow 8 2 ||| BitVec.twoPow 8 3 ||| BitVec.twoPow 8 4 ||| BitVec.twoPow 8 5 |||
      BitVec.twoPow 8 7 = 0xBC := by decide
  simp only [protectionByte, protectionOfByte, bitAt_getLsbD, ← BitVec.and_or_distrib_left, mask]

/-- Settles O5: `encode` after `decode` masks each writable bit separately, and the five masks make up 0xBC. -/
theorem codecKeepsExactlyTheWritableBits : Obligations.CodecKeepsExactlyTheWritableBits := by
  intro v
  rw [encodeStatus, protectionOf_decodeStatus, protectionByte_protectionOfByte_eq_and]

end Sys2Proof.Machine
end

section
/-!
PROOFS. The command transaction of a wire frame: a failed assertion of chip-enable ends it (R133).
-/

namespace Sys2Proof.Machine

/-- The state when the transaction begun in `s` has ended at its CE Low, answered fail(c): the lines are configured, and
chip-enable is at X (R29, R133). -/
def assertionFailed (s : State) (c : Failure) (rest : List Answer) : State :=
  { afterConfig s rest with
    ce := .x
    phase := .respond
    result := some (.err (.enableLineFailure c.line))
    trace := s.trace ++ (configEntries s ++ [.lineSet .ce .low (some c.line)]) }

/-- The transaction rests once CE Low has failed, however many more events it is allowed. -/
theorem runWindow_assertionFailed (n : Nat) {s : State} {c : Failure} {rest : List Answer}
    (hp : s.phase = windowStart s.configured) (ha : s.answers = configAnswers s ++ [.fail c] ++ rest) :
    runWindow ((configAnswers s).length + (n + 1)) s = assertionFailed s c rest := by
  rw [runWindow_config (n + 1) hp (by rw [ha, List.append_assoc]), runWindow_event n (by rfl) ⟨id, id⟩,
    tick_ceLow_fail (c := c) (rest := rest) _ rfl rfl, runWindow_rest n rfl]
  simp [assertionFailed, afterConfig]

theorem issue_assertionFailed {s : State} {bytes : List Byte} {c : Failure} {rest : List Answer}
    (ha : s.answers = configAnswers s ++ [.fail c] ++ rest) :
    issue bytes s = .next (assertionFailed (s.openWindow bytes) c rest) := by
  have fuel : max 1 (s.openWindow bytes).answers.length =
      (configAnswers (s.openWindow bytes)).length + (rest.length + 1) := by
    rw [State.openWindow_answers, configAnswers_congr (State.openWindow_configured bytes s), ha]
    simp; omega
  simp only [issue, fuel]
  rw [runWindow_assertionFailed rest.length (s := s.openWindow bytes) rfl ha]

/-- Settles O25: every well-formed wire frame is the transaction of some bytes, and a failed CE Low ends any transaction. -/
theorem failedAssertionEndsTransaction : Obligations.FailedAssertionEndsTransaction := by
  intro i s e rest hi hw ha
  obtain ⟨bytes, l, hexec⟩ := exec_wire i s hi hw
  refine ⟨assertionFailed (State.openWindow bytes { s with rlen := l }) e rest, ?_,
    rfl, rfl, rfl, rfl, rfl, rfl, rfl, rfl⟩
  rw [hexec]
  exact issue_assertionFailed ha

end Sys2Proof.Machine
end

section
/-!
PROOFS. The program operations: the operand checks of aai_program (R171), and byte_program in both modes (R175).
-/

namespace Sys2Proof.Machine

theorem addressAccepted_iff (a : Addr) : addressAccepted a = true ↔ a.toNat ≤ 16777216 := by
  simp [addressAccepted, Config.maxAddress, BitVec.le_def]

theorem addressAccepted_eq_false_iff (a : Addr) : addressAccepted a = false ↔ 16777216 < a.toNat := by
  rw [← Bool.not_eq_true, addressAccepted_iff, not_le]

/-! ### The operand checks of aai_program -/

theorem aaiChecks_invalidAddress {s : State} (h : 16777216 < s.addr.toNat) : aaiChecks s = some .invalidAddress := by
  simp [aaiChecks, (addressAccepted_eq_false_iff _).2 h]

theorem aaiChecks_bufferTooSmall {s : State} (h : s.addr.toNat ≤ 16777216) (hl : s.buf.length < 2) :
    aaiChecks s = some .bufferTooSmall := by
  simp only [aaiChecks, State.len, (addressAccepted_iff _).2 h, hl, if_true]

theorem aaiChecks_bufferUneven {s : State} (h : s.addr.toNat ≤ 16777216) (hl : 2 ≤ s.buf.length)
    (ho : s.buf.length % 2 = 1) : aaiChecks s = some .bufferUneven := by
  simp [aaiChecks, State.len, (addressAccepted_iff _).2 h, not_lt.2 hl, ho]

/-- The state in VALIDATE with the operands of `aai_program` latched. -/
def aaiLatched (a : Addr) (buf : List Byte) (s : State) : State :=
  { s with op := .aaiProgram, addr := a, buf := buf, phase := .validate }

/-- Whichever check fails, the operation is over before any event. -/
theorem exec_aaiProgram_rejected {a : Addr} {buf : List Byte} {s : State} {k : OpError} (hp : s.phase = .idle)
    (hb : s.cfg.admits (.aaiProgram a buf) = true) (hk : aaiChecks (aaiLatched a buf s) = some k) :
    ∃ t : State, exec (.aaiProgram a buf) s = .next t ∧ RejectedUntouched s t k := by
  have hv : aaiProgramProgram.validate (aaiLatched a buf s) = (aaiLatched a buf s).raise k := by
    simp only [aaiProgramProgram, hk]
  have hexec : exec (.aaiProgram a buf) s =
      accept aaiProgramProgram (fun s => { s with op := .aaiProgram, addr := a, buf := buf }) s := by
    simp only [exec, execAaiProgram, hb, acceptWithin_admitted]
  exact ⟨_, hexec.trans (accept_raises hp hv), rfl, rfl, rfl, rfl, rfl, rfl, rfl, rfl, rfl, rfl, rfl, rfl⟩

/-- Settles O42: each clause is the first check that fails, and a failed check ends the operation before any event. -/
theorem aaiOperandChecksInOrder : Obligations.AaiOperandChecksInOrder := by
  intro a buf s hp hb
  refine ⟨fun ha => ?_, fun ha hl => ?_, fun ha hl ho => ?_⟩
  · exact exec_aaiProgram_rejected hp hb (aaiChecks_invalidAddress ha)
  · exact exec_aaiProgram_rejected hp hb (aaiChecks_bufferTooSmall ha hl)
  · exact exec_aaiProgram_rejected hp hb (aaiChecks_bufferUneven ha hl ho)

/-! ### Between transactions -/

@[simp] theorem configEntries_beginTxn (g : Stage) (f : List Byte) (s : State) :
    configEntries (s.beginTxn g f) = configEntries s := configEntries_congr rfl

@[simp] theorem configEntries_windowDone (s : State) (rx : List Byte) (rest : List Answer) :
    configEntries (windowDone s rx rest) = [] := rfl

@[simp] theorem windowDone_trace (s : State) (rx : List Byte) (rest : List Answer) :
    (windowDone s rx rest).trace = s.trace ++ (configEntries s ++ txnEntries s.frame rx) := rfl

/-! ### The write-enable handshake and the idle check of a writing operation -/

theorem assertNotBusy_idle (go : State → State) {s : State} (h : statusResponse false s.rx) :
    assertNotBusy go s = go s := by
  rw [assertNotBusy, busyBit_eq h rfl]; rfl

/-- The state in NEXT when the WREN frame and the status read of the operation begun in `s` have succeeded (R176, R211). -/
def idleChecked (s : State) (rx1 rx2 : List Byte) (rest : List Answer) : State :=
  windowDone
    ((windowDone (s.beginTxn .enable wrenBytes) rx1 (txnAnswers rx2 ++ rest)).beginTxn .check rdsrBytes) rx2 rest

@[simp] theorem configEntries_idleChecked (s : State) (rx1 rx2 : List Byte) (rest : List Answer) :
    configEntries (idleChecked s rx1 rx2 rest) = [] := rfl

@[simp] theorem idleChecked_trace (s : State) (rx1 rx2 : List Byte) (rest : List Answer) :
    (idleChecked s rx1 rx2 rest).trace =
      s.trace ++ (configEntries s ++ (txnEntries wrenBytes rx1 ++ txnEntries rdsrBytes rx2)) := by
  simp [idleChecked]

/-- Every operation that begins with WREN and then reads the status, comes to its busy test this way. -/
theorem advance_idleCheck {m : Microprogram} (hm : ∀ u : State, u.stage = .enable → m.next u = u.beginTxn .check rdsrBytes)
    {s : State} {rx1 rx2 : List Byte} {rest : List Answer}
    (ha : s.answers = configAnswers s ++ (txnAnswers rx1 ++ txnAnswers rx2) ++ rest)
    (h1 : rx1.length = 1) (h2 : rx2.length = 2) :
    advance m s.answers.length (s.beginTxn .enable wrenBytes) =
      advance m rest.length (settle m (idleChecked s rx1 rx2 rest)) := by
  rw [advance_txn_then m (f := wrenBytes) (rx := rx1) (rest := txnAnswers rx2 ++ rest) (by simp [ha]) h1 (by decide)
    (hm _ rfl)]
  exact advance_txn m (s := windowDone (s.beginTxn .enable wrenBytes) rx1 (txnAnswers rx2 ++ rest)) rfl h2 (by decide)

/-! ### A wait at the end of an operation -/

/-- The state in NEXT when the wait begun in `s`, between two transactions, has ended (R210). -/
def waitDone (s : State) (busy : List (List Byte)) (last : List Byte) (rest : List Answer) : State :=
  { s.beginTxn .poll rdsrBytes with
    phase := .next, ce := .high, rx := last, xres := .ok, trace := s.trace ++ waitEntries busy last, answers := rest }

/-- An operation that waits after a transaction and returns after the wait, once its polls are answered. -/
theorem advance_waitThenReturn {m : Microprogram} {v : OpValue}
    (hm : ∀ u : State, u.stage = .poll → m.next u = pollAgain (State.returnOk v) u) {s : State}
    {busy : List (List Byte)} {last : List Byte} {rest : List Answer} (hp : s.phase = .next) (hc : s.configured = true)
    (hn : m.next s = s.beginTxn .poll rdsrBytes) (hw : waitResponses busy last)
    (ha : s.answers = waitAnswers busy last ++ rest) :
    advance m s.answers.length (settle m s) = ((waitDone s busy last rest).returnOk v).respond := by
  obtain ⟨hadvance, hreturn⟩ := advance_wait hm (s := s.beginTxn .poll rdsrBytes) (rest := rest)
    (by simp [hc, windowStart]) rfl rfl hc hw ha
  have hreturn' : m.next (waitDone s busy last rest) = (waitDone s busy last rest).returnOk v := hreturn
  calc advance m s.answers.length (settle m s)
      = advance m s.answers.length (s.beginTxn .poll rdsrBytes) := by
        rw [settle_next_event m hp (by rw [hn]; exact windowStart_atEvent _), hn]
    _ = advance m rest.length (settle m (waitDone s busy last rest)) := hadvance
    _ = ((waitDone s busy last rest).returnOk v).respond := by
        rw [settle_next_respond m rfl (by rw [hreturn']; rfl), hreturn', advance_rest m _ rfl]

/-! ### byte_program -/

theorem byteProgram_next_enable (s : State) (h : s.stage = .enable) :
    byteProgramProgram.next s = s.beginTxn .check rdsrBytes := by
  simp only [byteProgramProgram, h]

theorem byteProgram_next_check {s : State} (h : s.stage = .check) (hr : statusResponse false s.rx) :
    byteProgramProgram.next s = s.beginTxn .main (byteProgFrame s) := by
  simp only [byteProgramProgram, h, assertNotBusy_idle _ hr]

theorem byteProgram_next_main_blocking {s : State} (h : s.stage = .main) (hb : s.blocking = true) :
    byteProgramProgram.next s = s.beginTxn .poll rdsrBytes := by
  simp [byteProgramProgram, h, waitFor, hb]

theorem byteProgram_next_main_nonblocking {s : State} (h : s.stage = .main) (hb : s.blocking = false) :
    byteProgramProgram.next s = s.returnOk .unit := by
  simp [byteProgramProgram, h, waitFor, hb]

theorem byteProgram_next_poll (s : State) (h : s.stage = .poll) :
    byteProgramProgram.next s = pollAgain (State.returnOk .unit) s := by
  simp only [byteProgramProgram, h]

/-- The state in VALIDATE with the operands of `byte_program` latched. -/
def byteLatched (a : Addr) (d : Byte) (s : State) : State :=
  { s with op := .byteProgram, addr := a, data := d, phase := .validate }

@[simp] theorem configEntries_byteLatched (a : Addr) (d : Byte) (s : State) :
    configEntries (byteLatched a d s) = configEntries s := configEntries_congr rfl

@[simp] theorem byteLatched_trace (a : Addr) (d : Byte) (s : State) : (byteLatched a d s).trace = s.trace := rfl

/-- The state in NEXT when `byte_program(a, d)` has found the chip idle and sent its BYTE_PROG frame. -/
def byteSent (a : Addr) (d : Byte) (s : State) (rx1 rx2 rx3 : List Byte) (rest : List Answer) : State :=
  windowDone ((idleChecked (byteLatched a d s) rx1 rx2 (txnAnswers rx3 ++ rest)).beginTxn .main
    (byteProgBytes (wireAddress s.cfg a) d)) rx3 rest

theorem byteSent_trace (a : Addr) (d : Byte) (s : State) (rx1 rx2 rx3 : List Byte) (rest : List Answer) :
    (byteSent a d s rx1 rx2 rx3 rest).trace = s.trace ++ (configEntries s ++ (txnEntries wrenBytes rx1 ++
      txnEntries rdsrBytes rx2 ++ txnEntries (byteProgBytes (wireAddress s.cfg a) d) rx3)) := by
  simp [byteSent]

section
variable {a : Addr} {s : State} {rx1 rx2 rx3 : List Byte} {rest : List Answer} (d : Byte)
  (hp : s.phase = .idle) (haddr : a.toNat ≤ 16777216) (h1 : rx1.length = 1) (h2 : statusResponse false rx2)
  (h3 : rx3.length = 5)
include hp haddr h1 h2 h3

/-- Both modes run alike up to the end of the BYTE_PROG transaction: one status read before it (R175). -/
theorem exec_byteProgram_sends
    (ha : s.answers = configAnswers s ++ (txnAnswers rx1 ++ txnAnswers rx2 ++ txnAnswers rx3) ++ rest) :
    exec (.byteProgram a d) s = .next (advance byteProgramProgram rest.length
      (settle byteProgramProgram (byteSent a d s rx1 rx2 rx3 rest))) := by
  have hv : byteProgramProgram.validate (byteLatched a d s) = (byteLatched a d s).beginTxn .enable wrenBytes :=
    if_pos ((addressAccepted_iff a).2 haddr)
  have hn : byteProgramProgram.next (idleChecked (byteLatched a d s) rx1 rx2 (txnAnswers rx3 ++ rest)) =
      (idleChecked (byteLatched a d s) rx1 rx2 (txnAnswers rx3 ++ rest)).beginTxn .main
        (byteProgBytes (wireAddress s.cfg a) d) := byteProgram_next_check rfl h2
  calc exec (.byteProgram a d) s
      = .next (advance byteProgramProgram (byteLatched a d s).answers.length
          ((byteLatched a d s).beginTxn .enable wrenBytes)) :=
        accept_begins (load := fun s => { s with op := .byteProgram, addr := a, data := d }) hp hv
    _ = .next (advance byteProgramProgram (txnAnswers rx3 ++ rest).length
          ((idleChecked (byteLatched a d s) rx1 rx2 (txnAnswers rx3 ++ rest)).beginTxn .main
            (byteProgBytes (wireAddress s.cfg a) d))) := by
        rw [advance_idleCheck byteProgram_next_enable (rest := txnAnswers rx3 ++ rest)
          (by simp [byteLatched, ha, configAnswers]) h1 h2.1, settle_next_event _ rfl (by rw [hn]; exact windowStart_atEvent true), hn]
    _ = .next (advance byteProgramProgram rest.length
          (settle byteProgramProgram (byteSent a d s rx1 rx2 rx3 rest))) :=
        congrArg _ (advance_txn byteProgramProgram
          (s := idleChecked (byteLatched a d s) rx1 rx2 (txnAnswers rx3 ++ rest)) rfl h3 (by simp [byteProgBytes]))

/-- With `blocking` = 1 the operation polls until a response shows the chip idle, and then returns. -/
theorem exec_byteProgram_blocking {busy : List (List Byte)} {last : List Byte} (hb : s.blocking = true)
    (hw : waitResponses busy last)
    (ha : s.answers = configAnswers s ++
      (txnAnswers rx1 ++ txnAnswers rx2 ++ txnAnswers rx3 ++ waitAnswers busy last) ++ rest) :
    ∃ t : State, exec (.byteProgram a d) s = .next t ∧
      Finished s t (configEntries s ++ (txnEntries wrenBytes rx1 ++ txnEntries rdsrBytes rx2 ++
        txnEntries (byteProgBytes (wireAddress s.cfg a) d) rx3 ++ waitEntries busy last)) (.ok .unit) rest := by
  have hn : byteProgramProgram.next (byteSent a d s rx1 rx2 rx3 (waitAnswers busy last ++ rest)) =
      (byteSent a d s rx1 rx2 rx3 (waitAnswers busy last ++ rest)).beginTxn .poll rdsrBytes :=
    byteProgram_next_main_blocking rfl hb
  have hwait := advance_waitThenReturn byteProgram_next_poll (rest := rest) rfl rfl hn hw rfl
  have htrace : (waitDone (byteSent a d s rx1 rx2 rx3 (waitAnswers busy last ++ rest)) busy last rest).trace =
      s.trace ++ (configEntries s ++ (txnEntries wrenBytes rx1 ++ txnEntries rdsrBytes rx2 ++
        txnEntries (byteProgBytes (wireAddress s.cfg a) d) rx3 ++ waitEntries busy last)) := by
    simp [waitDone, byteSent_trace]
  have hsent := exec_byteProgram_sends d hp haddr h1 h2 h3 (rest := waitAnswers busy last ++ rest) (by simp [ha])
  exact ⟨_, hsent.trans (congrArg _ hwait), rfl, htrace, rfl, rfl, rfl, rfl, rfl, rfl, rfl, rfl, rfl, rfl⟩

/-- With `blocking` = 0 the operation returns without a poll. -/
theorem exec_byteProgram_nonblocking (hb : s.blocking = false)
    (ha : s.answers = configAnswers s ++ (txnAnswers rx1 ++ txnAnswers rx2 ++ txnAnswers rx3) ++ rest) :
    ∃ t : State, exec (.byteProgram a d) s = .next t ∧
      Finished s t (configEntries s ++ (txnEntries wrenBytes rx1 ++ txnEntries rdsrBytes rx2 ++
        txnEntries (byteProgBytes (wireAddress s.cfg a) d) rx3)) (.ok .unit) rest := by
  have hn : byteProgramProgram.next (byteSent a d s rx1 rx2 rx3 rest) =
      (byteSent a d s rx1 rx2 rx3 rest).returnOk .unit := byteProgram_next_main_nonblocking rfl hb
  refine ⟨((byteSent a d s rx1 rx2 rx3 rest).returnOk .unit).respond, ?_,
    rfl, byteSent_trace .., rfl, rfl, rfl, rfl, rfl, rfl, rfl, rfl, rfl, rfl⟩
  rw [exec_byteProgram_sends d hp haddr h1 h2 h3 ha, settle_next_respond _ rfl (by rw [hn]; rfl), hn,
    advance_rest _ _ rfl]

end

/-- Settles O34: a blocking `byte_program` goes on to the polls of its wait, the other returns at once. -/
theorem byteProgramCompletesInBothModes : Obligations.ByteProgramCompletesInBothModes := by
  intro a d s rx1 rx2 rx3 rest hp haddr h1 h2 h3
  exact ⟨fun _ _ => exec_byteProgram_blocking d hp haddr h1 h2 h3, exec_byteProgram_nonblocking d hp haddr h1 h2 h3⟩

end Sys2Proof.Machine
end

section
/-!
PROOFS. The exceptions: a line command that fails at the start of an operation's first transaction ends the operation (R133, R234,
R237).
-/

namespace Sys2Proof.Machine

/-! ### The operations that reach a transaction -/

theorem byteProgram_validate {s : State} (h : s.addr.toNat ≤ 16777216) :
    byteProgramProgram.validate s = s.beginTxn .enable wrenBytes :=
  if_pos ((addressAccepted_iff s.addr).2 h)

theorem aaiProgram_validate {s : State} (h : s.addr.toNat ≤ 16777216) (hl : 2 ≤ s.buf.length) (he : s.buf.length % 2 = 0) :
    aaiProgramProgram.validate s = s.beginTxn .enable wrenBytes := by
  have hk : aaiChecks s = none := by simp [aaiChecks, State.len, (addressAccepted_iff _).2 h, not_lt.2 hl, he]
  simp only [aaiProgramProgram, hk]

theorem read_validate {s : State} (h : s.addr.toNat ≤ 16777216) :
    readProgram.validate s = s.beginTxn .main (readFrame s.cfg (wireAddress s.cfg s.addr) s.rlen) :=
  if_pos ((addressAccepted_iff s.addr).2 h)

theorem sameButRegisters_refl (s : State) : SameButRegisters s s :=
  ⟨rfl, rfl, rfl, rfl, rfl, rfl, rfl, rfl, rfl, rfl, rfl⟩

/-- Executed in `s`, the instruction latches its operands, changing nothing but registers, and begins a transaction, from which it
runs on through the fixed answers. -/
def OpensTransaction (i : Instr) (s : State) : Prop :=
  ∃ (m : Microprogram) (u : State) (g : Stage) (f : List Byte), SameButRegisters s u ∧
    exec i s = .next (advance m s.answers.length (u.beginTxn g f))

theorem opensTransaction_of_accept {i : Instr} {s : State} {m : Microprogram} {load : State → State} {g : Stage} {f : List Byte}
    (hp : s.phase = .idle) (hexec : exec i s = accept m load s) (hload : SameButRegisters s (load s))
    (hv : m.validate { load s with phase := .validate } = State.beginTxn g f { load s with phase := .validate }) :
    OpensTransaction i s := by
  obtain ⟨-, -, -, -, -, -, -, -, -, hanswers, -⟩ := id hload
  exact ⟨m, load s, g, f, hload, by rw [hexec, accept_begins hp hv, hanswers]; rfl⟩

/-- Beside `exec_reachesTransaction`, this gives the whole frame of the latching, which `Ended` speaks of. -/
theorem opensTransaction_of_reachesTransaction {i : Instr} {s : State} (hi : Instr.reachesTransaction i = true)
    (hb : s.cfg.admits i = true) (hp : s.phase = .idle) : OpensTransaction i s := by
  have hload := sameButRegisters_refl s
  cases i with
  | readStatus =>
    exact opensTransaction_of_accept (m := readStatusProgram) (load := fun s => { s with op := .readStatus }) hp rfl hload rfl
  | writeEnable =>
    exact opensTransaction_of_accept (m := writeEnableProgram) (load := fun s => { s with op := .writeEnable }) hp rfl hload rfl
  | writeDisable =>
    exact opensTransaction_of_accept (m := writeDisableProgram) (load := fun s => { s with op := .writeDisable }) hp rfl hload rfl
  | writeStatus st =>
    exact opensTransaction_of_accept (m := writeStatusProgram) (load := fun s => { s with op := .writeStatus, statIn := st })
      hp rfl hload rfl
  | eraseFull =>
    exact opensTransaction_of_accept (m := eraseFullProgram) (load := fun s => { s with op := .eraseFull }) hp rfl hload rfl
  | byteProgram a d =>
    have haddr : a.toNat ≤ 16777216 := of_decide_eq_true hi
    exact opensTransaction_of_accept (m := byteProgramProgram) (load := fun s => { s with op := .byteProgram, addr := a, data := d })
      hp rfl hload (byteProgram_validate haddr)
  | aaiProgram a buf =>
    simp only [Instr.reachesTransaction, Bool.and_eq_true, decide_eq_true_eq] at hi
    obtain ⟨⟨haddr, hlen⟩, heven⟩ := hi
    exact opensTransaction_of_accept (m := aaiProgramProgram) (load := fun s => { s with op := .aaiProgram, addr := a, buf := buf })
      hp (by simp only [exec, execAaiProgram, hb, acceptWithin_admitted]) hload (aaiProgram_validate haddr hlen heven)
  | read a l =>
    simp only [Instr.reachesTransaction, Bool.and_eq_true, decide_eq_true_eq] at hi
    obtain ⟨haddr, hl⟩ := hi
    exact opensTransaction_of_accept (m := readProgram) (load := fun s => { s with op := .read, addr := a, rlen := l })
      hp (by simp only [exec, execRead, Nat.one_le_iff_ne_zero.1 hl, if_false, hb, acceptWithin_admitted]) hload
      (read_validate haddr)
  | _ => exact nomatch hi

/-! ### A failed line command ends an operation -/

/-- An event that raises an error is the operation's last, however many more events it is allowed. -/
theorem advance_raised (m : Microprogram) (n : Nat) {s t : State} (he : s.phase.atEvent = true) (ht : tick m s = t)
    (hr : t.phase = .respond) : advance m (n + 1) s = t.respond := by
  rw [advance_event m n he, ht, settle_respond m hr, advance_rest m n (by rw [State.respond_phase]; rfl)]

/-- The state when the transaction begun in `s` has ended at the HOLD High of its configuration, answered fail(c) (R29, R234). -/
def holdFailed (s : State) (c : Failure) (rest : List Answer) : State :=
  { s with
    hold := .x
    phase := .respond
    result := some (.err (.holdLineFailure c.line))
    answers := rest
    trace := s.trace ++ [.lineSet .hold .high (some c.line)] }

/-- The same at the WP Low after it. -/
def writeProtectFailed (s : State) (c : Failure) (rest : List Answer) : State :=
  { s with
    hold := .high
    wp := .x
    phase := .respond
    result := some (.err (.writeProtectLineFailure c.line))
    answers := rest
    trace := s.trace ++ [.lineSet .hold .high none, .lineSet .wp .low (some c.line)] }

section
variable (m : Microprogram) (n : Nat) {s : State} {c : Failure} {rest : List Answer}

theorem advance_holdFailed (hp : s.phase = .cfgHold) (ha : s.answers = .fail c :: rest) :
    advance m (n + 1) s = (holdFailed s c rest).respond :=
  advance_raised m n (by rw [hp]; rfl) (tick_cfgHold_fail m hp ha) rfl

theorem advance_writeProtectFailed {rx : List Byte} (hp : s.phase = .cfgHold) (ha : s.answers = .ok rx :: .fail c :: rest) :
    advance m (n + 2) s = (writeProtectFailed s c rest).respond := by
  rw [advance_event m (n + 1) (by rw [hp]; rfl), tick_cfgHold_ok m hp ha, settle_atEvent m rfl,
    advance_raised m n rfl (tick_cfgWp_fail (c := c) (rest := rest) m rfl rfl) rfl]
  simp [writeProtectFailed]

theorem advance_assertionFailed (hp : s.phase = windowStart s.configured) (ha : s.answers = configAnswers s ++ [.fail c] ++ rest) :
    advance m ((configAnswers s).length + (n + 1)) s = (assertionFailed s c rest).respond := by
  rw [advance_config m (n + 1) hp (by rw [ha, List.append_assoc]),
    advance_raised m n rfl (tick_ceLow_fail (c := c) (rest := rest) m rfl rfl) rfl]
  simp [assertionFailed, afterConfig]

end

/-! ### The first transaction of an operation -/

/-- `Ended` does not look at the registers of the state that the operation began in. -/
theorem ended_of_sameButRegisters {s u t : State} {entries : List Entry} {r : OpResult} {ce : Level} {rest : List Answer}
    (h : SameButRegisters s u) (ht : Ended u t entries r ce rest) : Ended s t entries r ce rest := by
  obtain ⟨hconfigured, hblocking, -, -, hwp, hhold, hresults, htrace, hprogram, -, hcfg⟩ := h
  simpa only [Ended, hconfigured, hblocking, hwp, hhold, hresults, htrace, hprogram, hcfg] using ht

theorem ended_assertionFailed (s : State) (g : Stage) (f : List Byte) (c : Failure) (rest : List Answer) :
    Ended s (assertionFailed (s.beginTxn g f) c rest).respond (configEntries s ++ [.lineSet .ce .low (some c.line)])
      (.err (.enableLineFailure c.line)) .x rest :=
  ⟨rfl, rfl, rfl, rfl, rfl, rfl, rfl, rfl, rfl, rfl, rfl, rfl⟩

/-- Settles O45: every operation that reaches a transaction begins one, and the first line command that fails in it is the
operation's last event. -/
theorem firstLineFailureEndsOperation : Obligations.FirstLineFailureEndsOperation := by
  intro i s e rest hi hb hp
  obtain ⟨m, u, g, f, hu, hexec⟩ := opensTransaction_of_reachesTransaction hi hb hp
  obtain ⟨hconfigured, hblocking, -, hce, hwp, -, hresults, htrace, -, hanswers, -⟩ := id hu
  have hstart (hc : s.configured = false) : (u.beginTxn g f).phase = .cfgHold := by
    rw [State.beginTxn_phase, ← hconfigured, hc]; rfl
  refine ⟨fun hc ha => ?_, fun rx hc ha => ?_, fun ha => ?_⟩
  · refine ⟨(holdFailed (u.beginTxn g f) e rest).respond, ?_, rfl, hconfigured.symm.trans hc, rfl, ?_, ?_, rfl,
      hwp.symm, hce.symm⟩
    · rw [hexec, ha]
      exact congrArg _ (advance_holdFailed m rest.length (hstart hc) (hanswers.symm.trans ha))
    · rw [hresults, hblocking, ← hc, hconfigured]; rfl
    · rw [htrace]; rfl
  · refine ⟨(writeProtectFailed (u.beginTxn g f) e rest).respond, ?_, rfl, hconfigured.symm.trans hc, rfl, ?_, ?_, rfl,
      rfl, hce.symm⟩
    · rw [hexec, ha]
      exact congrArg _ (advance_writeProtectFailed m rest.length (hstart hc) (hanswers.symm.trans ha))
    · rw [hresults, hblocking, ← hc, hconfigured]; rfl
    · rw [htrace]; rfl
  · have hconfig : configAnswers (u.beginTxn g f) = configAnswers s := configAnswers_congr hconfigured.symm
    have hfuel : s.answers.length = (configAnswers (u.beginTxn g f)).length + (rest.length + 1) := by
      rw [ha, hconfig]; simp only [List.length_append, List.length_singleton]; omega
    refine ⟨(assertionFailed (u.beginTxn g f) e rest).respond, ?_, ended_of_sameButRegisters hu ?_⟩
    · rw [hexec, hfuel, advance_assertionFailed m rest.length rfl (by rw [hconfig, ← ha]; exact hanswers.symm)]
    · rw [configEntries_congr hconfigured]
      exact ended_assertionFailed u g f e rest

end Sys2Proof.Machine
end

section
/-!
PROOFS. The encodings: decoder and encoder are inverse to each other (R80, R82 to R98), the status codec (R110 to R114), the address
field (R120 to R124), and the numbers of the results (R230).
-/

namespace Sys2Proof.Machine

/-! ### Decoding an encoded instruction -/

theorem decodeRequest_read (a : Addr) {l : Nat} (hl : 1 ≤ l) :
    decodeRequest { Request.bare 0x7 with addr := a, rlen := l } = .ok (.read a l) :=
  if_neg (Nat.one_le_iff_ne_zero.1 hl)

theorem decodeFrame_wrsrBytes (pre : Byte) (p : Protection) :
    decodeFrame pre (wrsrBytes (protectionByte p)) = .ok (.wrsr p) :=
  (if_pos (protectionByte_mask p)).trans (by rw [protectionOfByte_protectionByte])

theorem decodeFrame_byteProgBytes (pre : Byte) (a : WireAddr) (d : Byte) :
    decodeFrame pre (byteProgBytes a d) = .ok (.byteProg a d) :=
  congrArg (fun a => Except.ok (Instr.byteProg a d)) (addrOfField_addrField a)

theorem decodeFrame_aaiFirstBytes (pre : Byte) (a : WireAddr) (x y : Byte) :
    decodeFrame pre (aaiFirstBytes a x y) = .ok (.aaiFirst a x y) :=
  congrArg (fun a => Except.ok (Instr.aaiFirst a x y)) (addrOfField_addrField a)

theorem zeros_all_dummy (n : Nat) : (zeros n).all (fun b => b == Config.dummy) = true := by simp [zeros]

theorem decodeFrame_readBytes (pre : Byte) (a : WireAddr) {l : Nat} (hl : 1 ≤ l) :
    decodeFrame pre (readCommand a ++ zeros l) = .ok (.readMem a l) := by
  obtain ⟨n, rfl⟩ := Nat.exists_eq_add_of_le' hl
  have hdecode : decodeFrame pre (readCommand a ++ zeros (n + 1)) =
      .ok (.readMem (addrOfField (a.extractLsb' 16 8) (a.extractLsb' 8 8) (a.extractLsb' 0 8)) ((zeros n).length + 1)) :=
    if_pos (zeros_all_dummy (n + 1))
  rw [hdecode, addrOfField_addrField, zeros_length]

/-- The prelude frame is told from the three one-byte frames by its byte alone. -/
theorem decodeFrame_preludeBytes {pre : Byte} (h6 : pre ≠ 0x06) (h4 : pre ≠ 0x04) (h60 : pre ≠ 0x60) :
    decodeFrame pre (preludeBytes pre) = .ok .wsPrelude := by
  simp only [decodeFrame, preludeBytes, decodeOneByte, if_neg h6, if_neg h4, if_neg h60, if_true]

/-- Settles O1: instruction by instruction. A request gives its operands back as they stand; of the frames, those with an address, a
status byte or dummy bytes need that the field decodes to what it encodes. -/
theorem decodeInvertsEncode : Obligations.DecodeInvertsEncode := by
  intro pre i hwf hpre
  cases i with
  | read a l => exact decodeRequest_read a (of_decide_eq_true hwf)
  | wrsr p => exact decodeFrame_wrsrBytes pre p
  | byteProg a d => exact decodeFrame_byteProgBytes pre a d
  | aaiFirst a x y => exact decodeFrame_aaiFirstBytes pre a x y
  | readMem a l => exact decodeFrame_readBytes pre a (of_decide_eq_true hwf)
  | wsPrelude =>
    obtain ⟨h6, h4, h60⟩ := hpre rfl
    exact decodeFrame_preludeBytes h6 h4 h60
  | _ => rfl

/-! ### A window that decodes -/

/-- The bytes are the frame of the instruction, which is well formed and no host operation. -/
def IsFrameOf (pre : Byte) (bytes : List Byte) (i : Instr) : Prop :=
  encode pre i = .frame bytes ∧ i.wf = true ∧ i.isHostOp = false

theorem decodeOneByte_exact {pre o : Byte} {i : Instr} (h : decodeOneByte pre o = .ok i) : IsFrameOf pre [o] i := by
  unfold decodeOneByte at h
  split_ifs at h with h6 h4 h60 hpre
  · cases h; subst h6; exact ⟨rfl, rfl, rfl⟩
  · cases h; subst h4; exact ⟨rfl, rfl, rfl⟩
  · cases h; subst h60; exact ⟨rfl, rfl, rfl⟩
  · cases h; subst hpre; exact ⟨rfl, rfl, rfl⟩

theorem isFrameOf_wrsr (pre : Byte) {b : Byte} (h : b &&& 0x43 = 0) : IsFrameOf pre [0x01, b] (.wrsr (protectionOfByte b)) :=
  ⟨congrArg (fun b => Encoded.frame [0x01, b]) (protectionByte_protectionOfByte b h), rfl, rfl⟩

theorem isFrameOf_byteProg (pre a2 a1 a0 d : Byte) :
    IsFrameOf pre [0x02, a2, a1, a0, d] (.byteProg (addrOfField a2 a1 a0) d) :=
  ⟨by simp only [encode, byteProgBytes, addrField_addrOfField]; rfl, rfl, rfl⟩

theorem isFrameOf_aaiFirst (pre a2 a1 a0 x y : Byte) :
    IsFrameOf pre [0xAD, a2, a1, a0, x, y] (.aaiFirst (addrOfField a2 a1 a0) x y) :=
  ⟨by simp only [encode, aaiFirstBytes, addrField_addrOfField]; rfl, rfl, rfl⟩

theorem eq_zeros_of_all_dummy {bs : List Byte} (h : bs.all (fun b => b == Config.dummy) = true) : bs = zeros bs.length :=
  List.eq_replicate_iff.2 ⟨rfl, fun b hb => by simpa using List.all_eq_true.1 h b hb⟩

theorem isFrameOf_readMem (pre a2 a1 a0 : Byte) {z : Byte} {zs : List Byte}
    (h : (z :: zs).all (fun b => b == Config.dummy) = true) :
    IsFrameOf pre (0x03 :: a2 :: a1 :: a0 :: z :: zs) (.readMem (addrOfField a2 a1 a0) (zs.length + 1)) := by
  refine ⟨?_, by simp [Instr.wf], rfl⟩
  simp only [encode, readCommand, addrField_addrOfField]
  rw [eq_zeros_of_all_dummy h]; rfl

theorem decodeLonger_exact (pre : Byte) {o : Byte} {rest : List Byte} {i : Instr} (h : decodeLonger o rest = .ok i) :
    IsFrameOf pre (o :: rest) i := by
  unfold decodeLonger at h
  split_ifs at h with h5 h1 h2 hAD h3
  · subst h5
    split at h
    · split_ifs at h with hd
      cases h; subst hd; exact ⟨rfl, rfl, rfl⟩
    · cases h
  · subst h1
    split at h
    · split_ifs at h with hb
      cases h; exact isFrameOf_wrsr pre hb
    · cases h
  · subst h2
    split at h
    · cases h; exact isFrameOf_byteProg ..
    · cases h
  · subst hAD
    split at h
    · cases h; exact ⟨rfl, rfl, rfl⟩
    · cases h; exact isFrameOf_aaiFirst ..
    · cases h
  · subst h3
    split at h
    · cases h
    · split_ifs at h with hz
      cases h; exact isFrameOf_readMem pre _ _ _ hz
    · cases h

/-- Settles O2: byte 0 and the number of bytes tell the frame, and in each the fields that are decoded encode to the bytes they came
from. -/
theorem frameDecodeIsExact : Obligations.FrameDecodeIsExact := by
  intro pre bytes i h
  match bytes with
  | [o] => exact decodeOneByte_exact h
  | o :: b :: rest => exact decodeLonger_exact pre h

/-! ### Words of the spec, and what the request codes name -/

/-- Settles O3: the twelve words are closed terms, and the decoder computes. -/
theorem specWordsDecode : Obligations.SpecWordsDecode := by
  unfold Obligations.SpecWordsDecode
  decide

theorem decodeRequest_reserved {r : Request} (h : 0x9 ≤ r.op.toNat) : decodeRequest r = .error (.reservedOp r.op) := by
  unfold decodeRequest
  split
  case h_10 => rfl
  all_goals omega

/-- Settles O4: the decoder branches on the code alone, and the codes from 9 on have no branch of their own. -/
theorem requestCodesNameOperations : Obligations.RequestCodesNameOperations := by
  rintro ⟨op, addr, data, statIn, buf, rlen, b⟩
  refine ⟨?_, ?_, ?_, ?_, ?_, ?_, ?_, ?_, ?_, ?_, decodeRequest_reserved⟩
  case refine_8 => rintro rfl hl; exact if_neg (Nat.one_le_iff_ne_zero.1 hl)
  case refine_9 => rintro rfl hl; exact if_pos hl
  all_goals rintro rfl; rfl

/-! ### The status codec -/

theorem decodeStatus_encodeStatus (st : Status) : decodeStatus (encodeStatus st) =
    { st with busy := false, writeEnabled := false, aaiProgrammingMode := false } := by
  obtain ⟨b0, b1, b2, b3, b4, b5, b6, b7⟩ := st
  revert b0 b1 b2 b3 b4 b5 b6 b7
  decide

/-- Settles O6: `encode` does not read the three fields that the round trip clears. -/
theorem decodeAfterEncodeClearsChipFields : Obligations.DecodeAfterEncodeClearsChipFields := by
  intro st
  refine ⟨decodeStatus_encodeStatus st, ?_⟩
  rw [decodeStatus_encodeStatus]; rfl

/-- The byte of all eight bits of a Status; `encode` sends only the writable ones. -/
def byteOfStatus (st : Status) : Byte :=
  bitAt st.busy 0 ||| bitAt st.writeEnabled 1 ||| bitAt st.block0Protected 2 ||| bitAt st.block1Protected 3 |||
    bitAt st.block2Protected 4 ||| bitAt st.block3Protected 5 ||| bitAt st.aaiProgrammingMode 6 ||| bitAt st.bitsReadOnly 7

theorem decodeStatus_byteOfStatus (st : Status) : decodeStatus (byteOfStatus st) = st := by
  obtain ⟨b0, b1, b2, b3, b4, b5, b6, b7⟩ := st
  revert b0 b1 b2 b3 b4 b5 b6 b7
  decide

theorem byteOfStatus_decodeStatus : ∀ r : Byte, byteOfStatus (decodeStatus r) = r := by decide

/-- Settles O7: `byteOfStatus` is the inverse of `decode`; and `encode` sends five bits under the mask, of which every byte under the mask
is made. -/
theorem codecImages : Obligations.CodecImages := by
  refine ⟨fun st => ⟨byteOfStatus st, decodeStatus_byteOfStatus st, fun r hr => ?_⟩, fun b => ⟨?_, fun hb => ?_⟩⟩
  · rw [← hr, byteOfStatus_decodeStatus]
  · rintro ⟨st, rfl⟩
    exact protectionByte_mask _
  · exact ⟨decodeStatus b, by rw [encodeStatus, protectionOf_decodeStatus, protectionByte_protectionOfByte b hb]⟩

/-! ### Addresses -/

/-- Settles O8: the check compares as unsigned numbers. -/
theorem addressAcceptedUpToMaximum : Obligations.AddressAcceptedUpToMaximum := addressAccepted_iff

/-- Below 0x1000000 the wire address is the operand (R122). -/
theorem wireAddress_toNat (cfg : Config) {a : Addr} (h : a.toNat ≤ 0xFFFFFF) : (wireAddress cfg a).toNat = a.toNat := by
  have hne : a ≠ 0x1000000 := by rintro rfl; revert h; decide
  rw [wireAddress, if_neg hne, BitVec.extractLsb'_toNat, Nat.shiftRight_zero]
  exact Nat.mod_eq_of_lt (by omega)

/-- The three bytes of a 24-bit number, most significant first (R124). -/
theorem addrField_bigEndian (w : WireAddr) : w.toNat = (w.extractLsb' 16 8).toNat * 65536 + (w.extractLsb' 8 8).toNat * 256 +
    (w.extractLsb' 0 8).toNat := by
  have hw := w.isLt
  simp only [BitVec.extractLsb'_toNat, Nat.shiftRight_eq_div_pow]
  omega

theorem addrField_injective {w w' : WireAddr} (h : addrField w = addrField w') : w = w' := by
  simp only [addrField, List.cons.injEq, and_true] at h
  obtain ⟨h2, h1, h0⟩ := h
  rw [← addrOfField_addrField w, h2, h1, h0, addrOfField_addrField]

/-- Settles O9: up to 0xFFFFFF the wire address is the operand, whose field is big-endian and determines it; the decided bytes of
0x1000000 are those of 0. -/
theorem addressFieldIsBigEndian : Obligations.AddressFieldIsBigEndian := by
  refine ⟨fun cfg a ha => ⟨_, _, _, rfl, ?_⟩, fun cfg a a' ha ha' h => ?_, by decide⟩
  · rw [← wireAddress_toNat cfg ha]
    exact addrField_bigEndian _
  · apply BitVec.eq_of_toNat_eq
    rw [← wireAddress_toNat cfg ha, ← wireAddress_toNat cfg ha', addrField_injective h]

/-! ### The numbers of the results -/

/-- Settles O10: `resultCode` looks at the kind alone. -/
theorem resultsAreNumbered : Obligations.ResultsAreNumbered := fun _ _ _ => ⟨rfl, rfl, rfl, rfl, rfl, rfl, rfl, rfl, rfl⟩

end Sys2Proof.Machine
end

section
/-!
PROOFS. One step: which instruction or phase transition it is (R27), the rows of the phase table, and the requests that are refused
(R81, R195, R250).
-/

namespace Sys2Proof.Machine

/-! ### What a step is -/

theorem step_request {s : State} {r : Request} {rest : List Request} {i : Instr} (hp : s.phase = .idle)
    (hr : s.program = r :: rest) (hd : decodeRequest r = .ok i) : step s = exec i { s with program := rest } := by
  simp only [step, hp, hr, hd]

theorem step_badRequest {s : State} {r : Request} {rest : List Request} {e : DecodeError} (hp : s.phase = .idle)
    (hr : s.program = r :: rest) (hd : decodeRequest r = .error e) : step s = .refused (requestRefusal e) := by
  simp only [step, hp, hr, hd]

theorem step_noRequest {s : State} (hp : s.phase = .idle) (hr : s.program = []) : step s = .next s := by
  simp only [step, hp, hr]

theorem step_window {s : State} {i : Instr} (hp : s.phase = .cfgHold ∨ s.phase = .ceLow) (hd : windowInstr s = .ok i) :
    step s = exec i s := by
  obtain hp | hp := hp <;> simp only [step, hp, hd]

theorem step_tick {s : State} (hidle : s.phase ≠ .idle) (hhold : s.phase ≠ .cfgHold) (hce : s.phase ≠ .ceLow) :
    step s = .next (tick (microprogram s.op) s) := by
  unfold step
  split
  case h_1 => contradiction
  case h_2 => contradiction
  case h_3 => contradiction
  all_goals rfl

/-- Settles O12: the three arms of `step`, by the phase. -/
theorem stepRunsDecodedInstruction : Obligations.StepRunsDecodedInstruction :=
  ⟨fun _ _ _ _ hp hr hd => step_request hp hr hd, fun _ _ hp hd => step_window hp hd, fun _ hp hr => step_noRequest hp hr,
    fun _ => step_tick⟩

/-- Settles O11: each register after reset, and a step with no request waits. -/
theorem resetValues : Obligations.ResetValues :=
  ⟨rfl, rfl, rfl, rfl, rfl, rfl, step_noRequest rfl rfl⟩

/-! ### The acceptance of a host operation -/

/-- What acceptance latches: OP and the operands that the operation uses (R23). A wire frame latches nothing. -/
def latch : Instr → State → State
  | .readStatus, s => { s with op := .readStatus }
  | .writeEnable, s => { s with op := .writeEnable }
  | .writeDisable, s => { s with op := .writeDisable }
  | .writeStatus st, s => { s with op := .writeStatus, statIn := st }
  | .eraseFull, s => { s with op := .eraseFull }
  | .byteProgram a d, s => { s with op := .byteProgram, addr := a, data := d }
  | .aaiProgram a buf, s => { s with op := .aaiProgram, addr := a, buf := buf }
  | .read a l, s => { s with op := .read, addr := a, rlen := l }
  | .setBlocking b, s => { s with op := .setBlocking, bIn := b }
  | _, s => s

/-- The state in VALIDATE with the request latched. -/
def latched (i : Instr) (s : State) : State := { latch i s with phase := .validate }

theorem latch_sameButRegisters (i : Instr) (s : State) : SameButRegisters s (latch i s) := by
  cases i <;> exact sameButRegisters_refl s

theorem latched_answers (i : Instr) (s : State) : (latched i s).answers = s.answers := by cases i <;> rfl

theorem latched_configured (i : Instr) (s : State) : (latched i s).configured = s.configured := by cases i <;> rfl

theorem latched_cfg (i : Instr) (s : State) : (latched i s).cfg = s.cfg := by cases i <;> rfl

/-- Every host operation is the acceptance of its request, by the own part of the operation it latches; for seven of them the
configured bounds allow every operand. -/
theorem exec_hostOp {i : Instr} (s : State) (hi : i.isHostOp = true) (hwf : i.wf = true) :
    exec i s = acceptWithin (s.cfg.admits i) (microprogram (latch i s).op) (latch i) s := by
  have unbounded (hb : s.cfg.admits i = true) (h : exec i s = accept (microprogram (latch i s).op) (latch i) s) :
      exec i s = acceptWithin (s.cfg.admits i) (microprogram (latch i s).op) (latch i) s := by
    rw [hb, acceptWithin_admitted, h]
  cases i with
  | read a l => exact if_neg (Nat.one_le_iff_ne_zero.1 (of_decide_eq_true hwf))
  | aaiProgram a buf => rfl
  | readStatus => exact unbounded rfl rfl
  | writeEnable => exact unbounded rfl rfl
  | writeDisable => exact unbounded rfl rfl
  | writeStatus st => exact unbounded rfl rfl
  | eraseFull => exact unbounded rfl rfl
  | byteProgram a d => exact unbounded rfl rfl
  | setBlocking b => exact unbounded rfl rfl
  | _ => exact nomatch hi

/-- A host operation within the bounds is accepted whatever its operands. -/
theorem exec_admitted {i : Instr} {s : State} (hi : i.isHostOp = true) (hwf : i.wf = true) (hb : s.cfg.admits i = true) :
    exec i s = accept (microprogram (latch i s).op) (latch i) s := by
  rw [exec_hostOp s hi hwf, hb, acceptWithin_admitted]

/-- A host operation that answers a next state was well formed, requested in IDLE and within the bounds. -/
theorem exec_hostOp_next {i : Instr} {s t : State} (hi : i.isHostOp = true) (h : exec i s = .next t) :
    s.phase = .idle ∧ i.wf = true ∧ s.cfg.admits i = true ∧ accept (microprogram (latch i s).op) (latch i) s = .next t := by
  have hwf : i.wf = true := by
    cases i with
    | read a l => exact decide_eq_true (Nat.one_le_iff_ne_zero.2 (by rintro rfl; cases h))
    | readMem a l => cases hi
    | _ => rfl
  rw [exec_hostOp s hi hwf] at h
  have hp : s.phase = .idle := by
    by_contra hp
    rw [acceptWithin_busy _ _ _ hp] at h
    cases h
  have hb : s.cfg.admits i = true := by
    by_contra hb
    rw [Bool.eq_false_iff.2 hb, acceptWithin_above _ _ hp] at h
    cases h
  exact ⟨hp, hwf, hb, acceptWithin_next h⟩

/-! ### The requests that are refused -/

/-- Settles O17: the decoder answers a reserved code with its refusal. -/
theorem reservedCodesAreRefused : Obligations.ReservedCodesAreRefused := by
  intro s r rest hp hr hop
  exact step_badRequest hp hr (decodeRequest_reserved hop)

theorem decodeRequest_readNothing {r : Request} (hop : r.op = 0x7) (hl : r.rlen = 0) :
    decodeRequest r = .error .readLengthZero := by
  simp [decodeRequest, hop, hl]

/-- Settles O18: the operation and the frame test L themselves, and the request is refused by the decoder. -/
theorem zeroLengthReadIsRefused : Obligations.ZeroLengthReadIsRefused :=
  ⟨fun _ _ => rfl, fun _ _ => rfl, fun _ _ _ hp hr hop hl => step_badRequest hp hr (decodeRequest_readNothing hop hl)⟩

theorem withinBound_above {n m : Nat} {bound : Option Nat} (h : bound = some m) (hn : m < n) : withinBound n bound = false := by
  subst h
  exact decide_eq_false (not_le.2 hn)

/-- Settles O19: above the bound the request is not admitted; the decided configuration has no bound. -/
theorem requestsAboveBoundAreRefused : Obligations.RequestsAboveBoundAreRefused := by
  refine ⟨fun s a l m hp hl hm hlt => ?_, fun s a buf m hp hm hlt => ?_, fun i => ?_⟩
  · rw [exec_hostOp (i := .read a l) s rfl (decide_eq_true hl), show s.cfg.admits (.read a l) = false from withinBound_above hm hlt]
    exact acceptWithin_above _ _ hp
  · rw [exec_hostOp (i := .aaiProgram a buf) s rfl rfl, show s.cfg.admits (.aaiProgram a buf) = false from withinBound_above hm hlt]
    exact acceptWithin_above _ _ hp
  · cases i <;> rfl

/-- Settles O20: every host operation is the acceptance of a request, with a bound for two of them. -/
theorem hostOpOutsideIdleIsRefused : Obligations.HostOpOutsideIdleIsRefused := by
  intro i s hi hwf hp
  rw [exec_hostOp s hi hwf]
  exact acceptWithin_busy _ _ _ hp

/-! ### VALIDATE -/

theorem step_validate {s : State} (hp : s.phase = .validate) : step s = .next ((microprogram s.op).validate s) := by
  rw [step_tick (by simp [hp]) (by simp [hp]) (by simp [hp]), tick, hp]

theorem byteProgram_validate_raises {s : State} (h : 16777216 < s.addr.toNat) :
    byteProgramProgram.validate s = s.raise .invalidAddress := by
  simp only [byteProgramProgram, (addressAccepted_eq_false_iff _).2 h]; rfl

theorem aaiProgram_validate_raises {s : State} {k : OpError} (h : aaiChecks s = some k) :
    aaiProgramProgram.validate s = s.raise k := by
  simp only [aaiProgramProgram, h]

theorem read_validate_raises {s : State} (h : 16777216 < s.addr.toNat) : readProgram.validate s = s.raise .invalidAddress := by
  simp only [readProgram, (addressAccepted_eq_false_iff _).2 h]; rfl

/-- Settles O13: the step is the operation's own VALIDATE, whose operand checks decide. -/
theorem stepInValidateBeginsTheOperation : Obligations.StepInValidateBeginsTheOperation := by
  intro s hp
  have hstep (op : HostOp) (hop : s.op = op) : step s = .next ((microprogram op).validate s) := hop ▸ step_validate hp
  refine ⟨hstep _, hstep _, hstep _, hstep _, hstep _, fun hop ha => ?_, fun hop ha => ?_, fun hop ha => ?_,
    fun hop ha hl => ?_, fun hop ha hl ho => ?_, fun hop ha hl he => ?_, fun hop ha => ?_, fun hop ha hf => ?_,
    fun hop ha hf => ?_, hstep _⟩
  · exact (hstep _ hop).trans (congrArg _ (byteProgram_validate ha))
  · exact (hstep _ hop).trans (congrArg _ (byteProgram_validate_raises ha))
  · exact (hstep _ hop).trans (congrArg _ (aaiProgram_validate_raises (aaiChecks_invalidAddress ha)))
  · exact (hstep _ hop).trans (congrArg _ (aaiProgram_validate_raises (aaiChecks_bufferTooSmall ha hl)))
  · exact (hstep _ hop).trans (congrArg _ (aaiProgram_validate_raises (aaiChecks_bufferUneven ha hl ho)))
  · exact (hstep _ hop).trans (congrArg _ (aaiProgram_validate ha hl he))
  · exact (hstep _ hop).trans (congrArg _ (read_validate_raises ha))
  · rw [hstep _ hop]
    exact congrArg _ ((read_validate ha).trans (by rw [readFrame, hf]; rfl))
  · rw [hstep _ hop]
    exact congrArg _ ((read_validate ha).trans (by rw [readFrame, hf]; rfl))

/-! ### The transaction and RESPOND -/

theorem dataExchangeFollows_split {s : State} (hf : s.cfg.readFraming = .split) :
    dataExchangeFollows s = isReadCommand s.frame := by
  rw [dataExchangeFollows, hf]

theorem dataExchangeFollows_joined {s : State} (hf : s.cfg.readFraming = .joined) : dataExchangeFollows s = false := by
  rw [dataExchangeFollows, hf]

theorem dataExchangeFollows_of_not_readCommand {s : State} (h : isReadCommand s.frame = false) :
    dataExchangeFollows s = false := by
  cases hf : s.cfg.readFraming with
  | split => rw [dataExchangeFollows_split hf, h]
  | joined => exact dataExchangeFollows_joined hf

/-- Settles O14: outside IDLE and the start of a transaction a step is one phase transition, and each row is that phase's. -/
theorem stepFollowsPhaseTable : Obligations.StepFollowsPhaseTable := by
  intro s rx e rest
  have hstep (p : Phase) (hp : s.phase = p) (h : p ≠ .idle ∧ p ≠ .cfgHold ∧ p ≠ .ceLow := by decide) :
      step s = .next (tick (microprogram s.op) s) := step_tick (hp ▸ h.1) (hp ▸ h.2.1) (hp ▸ h.2.2)
  refine ⟨fun hp ha => ?_, fun hp ha => ?_, fun hp hd hl ha => ?_, fun hp hf hr hl ha => ?_, fun hp ha => ?_,
    fun hp hl ha => ?_, fun hp ha => ?_, fun hp hx ha => ?_, fun eb hp hx ha => ?_, fun hp ha => ?_, fun r hp hr => ?_⟩
  · rw [hstep _ hp, tick_cfgWp_ok _ hp ha]
  · rw [hstep _ hp, tick_cfgWp_fail _ hp ha]
  · have hd : dataExchangeFollows s = false := hd.elim dataExchangeFollows_joined dataExchangeFollows_of_not_readCommand
    rw [hstep _ hp, tick_xfer_ok _ hp ha hl hd]
  · rw [hstep _ hp, tick_xfer_ok_split _ hp ha hl ((dataExchangeFollows_split hf).trans hr)]
  · rw [hstep _ hp, tick_xfer_fail _ hp ha]
  · rw [hstep _ hp, tick_xfer2_ok _ hp ha hl]
  · rw [hstep _ hp, tick_xfer2_fail _ hp ha]
  · rw [hstep _ hp, tick_ceHigh_ok _ hp ha hx]
  · rw [hstep _ hp, tick_ceHigh_transferFailure _ hp ha hx]
  · rw [hstep _ hp, tick_ceHigh_fail _ hp ha]
  · rw [hstep _ hp]
    simp only [tick, hp, State.respond, hr]

/-! ### NEXT -/

theorem step_next {s : State} (hp : s.phase = .next) : step s = .next ((microprogram s.op).next s) := by
  rw [step_tick (by simp [hp]) (by simp [hp]) (by simp [hp]), tick, hp]

theorem assertNotBusy_busy (go : State → State) {s : State} (h : statusResponse true s.rx) :
    assertNotBusy go s = s.raise .busy := by
  rw [assertNotBusy, busyBit_eq h rfl]; rfl

theorem waitFor_forced (done : State → State) (s : State) : waitFor true done s = s.beginTxn .poll rdsrBytes := by
  simp [waitFor]

theorem eraseFull_next_enable (s : State) (h : s.stage = .enable) : eraseFullProgram.next s = s.beginTxn .check rdsrBytes := by
  simp only [eraseFullProgram, h]

theorem eraseFull_next_check {s : State} (h : s.stage = .check) :
    eraseFullProgram.next s = assertNotBusy (State.beginTxn .main chipEraseBytes) s := by
  simp only [eraseFullProgram, h]

theorem eraseFull_next_main {s : State} (h : s.stage = .main) : eraseFullProgram.next s = s.beginTxn .poll rdsrBytes := by
  simp only [eraseFullProgram, h, waitFor_forced]

theorem eraseFull_next_poll (s : State) (h : s.stage = .poll) :
    eraseFullProgram.next s = pollAgain (State.returnOk .unit) s := by
  simp only [eraseFullProgram, h]

theorem byteProgram_next_busy {s : State} (h : s.stage = .check) (hr : statusResponse true s.rx) :
    byteProgramProgram.next s = s.raise .busy := by
  simp only [byteProgramProgram, h, assertNotBusy_busy _ hr]

theorem aaiProgram_next_enable (s : State) (h : s.stage = .enable) :
    aaiProgramProgram.next s = s.beginTxn .check rdsrBytes := by
  simp only [aaiProgramProgram, h]

theorem aaiProgram_next_check {s : State} (h : s.stage = .check) :
    aaiProgramProgram.next s = assertNotBusy (fun s => State.beginTxn .main (aaiFirstFrame s) { s with idx := 0 }) s := by
  simp only [aaiProgramProgram, h]

theorem aaiProgram_next_chunk {s : State} (h : s.stage = .main ∨ s.stage = .chunk) :
    aaiProgramProgram.next s = s.beginTxn .poll rdsrBytes := by
  obtain h | h := h <;> simp only [aaiProgramProgram, h, waitFor_forced]

theorem aaiProgram_next_poll (s : State) (h : s.stage = .poll) : aaiProgramProgram.next s = pollAgain aaiChunkDone s := by
  simp only [aaiProgramProgram, h]

theorem aaiProgram_next_disable {s : State} (h : s.stage = .disable) : aaiProgramProgram.next s = s.returnOk .unit := by
  simp only [aaiProgramProgram, h]

theorem aaiChunkDone_chunk {s : State} (h : s.idx + 2 ≤ s.buf.length / 2) :
    aaiChunkDone s = State.beginTxn .chunk (aaiChunkFrame s.cfg s.addr s.buf (s.idx + 1)) { s with idx := s.idx + 1 } :=
  if_pos h

theorem aaiChunkDone_last {s : State} (h : s.buf.length / 2 < s.idx + 2) :
    aaiChunkDone s = State.beginTxn .disable wrdiBytes { s with idx := s.idx + 1 } :=
  if_neg (not_le.2 h)

/-- Settles O15: the step is the operation's own NEXT, and the stage says which of its transactions is done. -/
theorem stepInNextContinuesTheOperation : Obligations.StepInNextContinuesTheOperation := by
  intro s hp
  have hstep (op : HostOp) (hop : s.op = op) : step s = .next ((microprogram op).next s) := hop ▸ step_next hp
  refine ⟨fun r0 r1 hop hr => ?_, ?_, fun hop hg => ?_, fun hop hg => ?_, fun hop hg => ?_, ?_, fun hop => ?_, fun hop => ?_,
    fun hop => ?_, fun hop hf => ?_, fun hop hf => ?_⟩
  · rw [hstep _ hop]
    simp only [microprogram, readStatusProgram, statusByte, hr]; rfl
  · rintro (hop | hop) <;> exact hstep _ hop
  · rw [hstep _ hop]
    simp only [microprogram, writeStatusProgram, hg]; rfl
  · rw [hstep _ hop]
    simp only [microprogram, writeStatusProgram, hg]; rfl
  · rw [hstep _ hop]
    simp only [microprogram, writeStatusProgram, hg]
  · rintro (hop | hop | hop) <;> rw [hstep _ hop]
    · refine ⟨fun hg => congrArg _ (eraseFull_next_enable s hg), fun hg hr => congrArg _ ?_, fun hg hr => congrArg _ ?_⟩
      · exact (eraseFull_next_check hg).trans (assertNotBusy_busy _ hr)
      · exact (eraseFull_next_poll s hg).trans (pollAgain_busy _ hr rfl)
    · refine ⟨fun hg => congrArg _ (byteProgram_next_enable s hg), fun hg hr => congrArg _ ?_, fun hg hr => congrArg _ ?_⟩
      · exact byteProgram_next_busy hg hr
      · exact (byteProgram_next_poll s hg).trans (pollAgain_busy _ hr rfl)
    · refine ⟨fun hg => congrArg _ (aaiProgram_next_enable s hg), fun hg hr => congrArg _ ?_, fun hg hr => congrArg _ ?_⟩
      · exact (aaiProgram_next_check hg).trans (assertNotBusy_busy _ hr)
      · exact (aaiProgram_next_poll s hg).trans (pollAgain_busy _ hr rfl)
  · rw [hstep _ hop]
    refine ⟨fun hg hr => congrArg _ ?_, fun hg => congrArg _ (eraseFull_next_main hg), fun hg hr => congrArg _ ?_⟩
    · exact (eraseFull_next_check hg).trans (assertNotBusy_idle _ hr)
    · exact (eraseFull_next_poll s hg).trans (pollAgain_idle _ hr rfl)
  · rw [hstep _ hop]
    refine ⟨fun hg hr => congrArg _ (byteProgram_next_check hg hr), fun hg hb => congrArg _ (byteProgram_next_main_blocking hg hb),
      fun hg hb => congrArg _ (byteProgram_next_main_nonblocking hg hb), fun hg hr => congrArg _ ?_⟩
    exact (byteProgram_next_poll s hg).trans (pollAgain_idle _ hr rfl)
  · rw [hstep _ hop]
    refine ⟨fun hg hr => congrArg _ ?_, fun hg => congrArg _ (aaiProgram_next_chunk hg), fun hg hr hidx => congrArg _ ?_,
      fun hg hr hidx => congrArg _ ?_, fun hg => congrArg _ (aaiProgram_next_disable hg)⟩
    · exact (aaiProgram_next_check hg).trans (assertNotBusy_idle _ hr)
    · exact (aaiProgram_next_poll s hg).trans ((pollAgain_idle _ hr rfl).trans (aaiChunkDone_chunk hidx))
    · exact (aaiProgram_next_poll s hg).trans ((pollAgain_idle _ hr rfl).trans (aaiChunkDone_last hidx))
  · rw [hstep _ hop]
    simp only [microprogram, readProgram, readData, hf]
  · rw [hstep _ hop]
    simp only [microprogram, readProgram, readData, hf]

/-! ### The write of the blocking flag -/

/-- Settles O37: VALIDATE writes the flag and returns, RESPOND reports; there is no event. -/
theorem setBlockingCompletes : Obligations.SetBlockingCompletes := by
  intro b s hp
  exact (accept_idle setBlockingProgram (fun s => { s with op := .setBlocking, bIn := b }) hp).trans
    (congrArg _ ((advance_rest _ _ rfl).trans (by rw [settle_validate_respond _ rfl rfl]; cases s; cases hp; rfl)))

end Sys2Proof.Machine
end

section
/-!
PROOFS. What a phase transition changes and what it leaves alone, and from it what a wire frame, a host operation and a step leave
alone (R20, R21, R23, R28, R60).
-/

namespace Sys2Proof.Machine

/-! ### One phase transition -/

/-- An event, whatever the environment answers: it takes the first fixed answer and makes one entry of the trace. It writes
`configured`, which it never clears, the work registers, PHASE, the lines and the result, and nothing else. -/
theorem tick_event (m : Microprogram) {s : State} (h : s.phase.atEvent = true) :
    ∃ (configured : Bool) (frame rx : List Byte) (xres : XRes) (phase : Phase) (ce wp hold : Level) (result : Option OpResult)
      (e : Entry), (s.configured = true → configured = true) ∧ phase ≠ .idle ∧
      tick m s = { s with
        configured := configured, frame := frame, rx := rx, xres := xres, phase := phase, ce := ce, wp := wp, hold := hold
        result := result, answers := s.answers.tail, trace := s.trace ++ [e] } := by
  cases hp : s.phase with
  | cfgHold =>
    obtain h | ⟨e, h⟩ := tick_cfgHold_cases m hp <;> exact ⟨_, _, _, _, _, _, _, _, _, _, id, by decide, h⟩
  | cfgWp =>
    obtain h | ⟨e, h⟩ := tick_cfgWp_cases m hp
    · exact ⟨_, _, _, _, _, _, _, _, _, _, fun _ => rfl, by decide, h⟩
    · exact ⟨_, _, _, _, _, _, _, _, _, _, id, by decide, h⟩
  | ceLow =>
    obtain h | ⟨e, h⟩ := tick_ceLow_cases m hp <;> exact ⟨_, _, _, _, _, _, _, _, _, _, id, by decide, h⟩
  | xfer =>
    obtain ⟨rx, -, -, h⟩ | ⟨rx, -, -, h⟩ | ⟨e, h⟩ := tick_xfer_cases m hp <;>
      exact ⟨_, _, _, _, _, _, _, _, _, _, id, by decide, h⟩
  | xfer2 =>
    obtain ⟨rx, -, h⟩ | ⟨e, h⟩ := tick_xfer2_cases m hp <;> exact ⟨_, _, _, _, _, _, _, _, _, _, id, by decide, h⟩
  | ceHigh =>
    obtain ⟨-, h⟩ | ⟨e, -, h⟩ | ⟨e, h⟩ := tick_ceHigh_cases m hp <;> exact ⟨_, _, _, _, _, _, _, _, _, _, id, by decide, h⟩
  | _ => rw [hp] at h; cases h

/-- What an operation does in VALIDATE, whatever its operands: it begins a transaction, raises an error, or, for `set_blocking`,
writes the flag and returns. -/
theorem validate_forms (op : HostOp) (s : State) :
    (∃ (g : Stage) (f : List Byte), (microprogram op).validate s = s.beginTxn g f) ∨
    (∃ k : OpError, (microprogram op).validate s = s.raise k) ∨
    (op = .setBlocking ∧ (microprogram op).validate s = State.returnOk .unit { s with blocking := s.bIn }) := by
  by_cases hop : op = .read
  · subst hop
    rcases Nat.lt_or_ge 16777216 s.addr.toNat with ha | ha
    · exact .inr (.inl ⟨_, read_validate_raises ha⟩)
    · exact .inl ⟨_, _, read_validate ha⟩
  · obtain ⟨g, f, h, -⟩ | ⟨k, h, -⟩ | h := validate_cases op s (fun h => absurd h hop)
    · exact .inl ⟨g, f, h⟩
    · exact .inr (.inl ⟨k, h⟩)
    · exact .inr (.inr h)

theorem assertNotBusy_idx {go : State → State} {s : State} (h : (go s).idx = s.idx) : (assertNotBusy go s).idx = s.idx := by
  unfold assertNotBusy; split
  · rfl
  · exact h

theorem waitFor_idx {forced : Bool} {done : State → State} {s : State} (h : (done s).idx = s.idx) :
    (waitFor forced done s).idx = s.idx := by
  unfold waitFor; split
  · rfl
  · exact h

theorem pollAgain_idx {done : State → State} {s : State} (h : (done s).idx = s.idx) : (pollAgain done s).idx = s.idx := by
  unfold pollAgain; split
  · rfl
  · exact h

/-- Only `aai_program` counts chunks. -/
theorem next_idx {op : HostOp} (hop : op ≠ .aaiProgram) (s : State) : ((microprogram op).next s).idx = s.idx := by
  cases op with
  | writeStatus => simp only [microprogram, writeStatusProgram]; split <;> rfl
  | eraseFull =>
    simp only [microprogram, eraseFullProgram]
    split
    · rfl
    · exact assertNotBusy_idx rfl
    · exact waitFor_idx rfl
    · exact pollAgain_idx rfl
    · rfl
  | byteProgram =>
    simp only [microprogram, byteProgramProgram]
    split
    · rfl
    · exact assertNotBusy_idx rfl
    · exact waitFor_idx rfl
    · exact pollAgain_idx rfl
    · rfl
  | aaiProgram => exact absurd rfl hop
  | _ => rfl

/-- A phase without an event makes no event: it takes no answer, and leaves `configured` and the lines alone. -/
theorem tick_quiet (op : HostOp) {s : State} (h : s.phase.atEvent = false) :
    ∃ (blocking : Bool) (frame : List Byte) (idx : Nat) (phase : Phase) (stage : Stage) (result : Option OpResult)
      (results : List Report), s.results <+: results ∧
      (blocking ≠ s.blocking → s.phase = .validate ∧ op = .setBlocking) ∧ (op ≠ .aaiProgram → idx = s.idx) ∧
      tick (microprogram op) s = { s with
        blocking := blocking, frame := frame, idx := idx, phase := phase, stage := stage, result := result, results := results } := by
  cases hp : s.phase with
  | idle => exact ⟨_, _, _, _, _, _, _, List.prefix_rfl, fun h => absurd rfl h, fun _ => rfl, by rw [tick, hp]⟩
  | validate =>
    have ht : tick (microprogram op) s = (microprogram op).validate s := by rw [tick, hp]
    rw [ht]
    obtain ⟨g, f, h⟩ | ⟨k, h⟩ | ⟨hop, h⟩ := validate_forms op s
    · exact ⟨_, _, _, _, _, _, _, List.prefix_rfl, fun h => absurd rfl h, fun _ => rfl, h⟩
    · exact ⟨_, _, _, _, _, _, _, List.prefix_rfl, fun h => absurd rfl h, fun _ => rfl, h⟩
    · exact ⟨_, _, _, _, _, _, _, List.prefix_rfl, fun _ => ⟨rfl, hop⟩, fun _ => rfl, h⟩
  | next =>
    have ht : tick (microprogram op) s = (microprogram op).next s := by rw [tick, hp]
    have hidx : op ≠ .aaiProgram → (tick (microprogram op) s).idx = s.idx := fun hop => by rw [ht, next_idx hop]
    obtain ⟨g, f, n, h, -⟩ | ⟨k, h, -⟩ | ⟨v, h⟩ := next_continues op s <;> rw [ht, h] at hidx <;> rw [ht]
    · exact ⟨_, _, _, _, _, _, _, List.prefix_rfl, fun h => absurd rfl h, hidx, h⟩
    · exact ⟨_, _, _, _, _, _, _, List.prefix_rfl, fun h => absurd rfl h, hidx, h⟩
    · exact ⟨_, _, _, _, _, _, _, List.prefix_rfl, fun h => absurd rfl h, hidx, h⟩
  | respond =>
    have ht : tick (microprogram op) s = s.respond := by rw [tick, hp]
    rw [ht, State.respond]
    split
    · exact ⟨_, _, _, _, _, _, _, List.prefix_append _ _, fun h => absurd rfl h, fun _ => rfl, rfl⟩
    · exact ⟨_, _, _, _, _, _, _, List.prefix_rfl, fun h => absurd rfl h, fun _ => rfl, rfl⟩
  | _ => rw [hp] at h; cases h

/-- A property that every phase transition without an event keeps, is kept by `settle`. -/
theorem settle_induct_quiet {m : Microprogram} {P : State → Prop}
    (h : ∀ s : State, s.phase.atEvent = false → P s → P (tick m s)) {s : State} (hs : P s) : P (settle m s) := by
  have hq (s : State) (hs : P s) : P (quiet m s) := by
    unfold quiet
    split
    · exact hs
    · exact h s (Bool.eq_false_iff.2 ‹_›) hs
  exact hq _ (hq _ hs)

theorem settle_answers (op : HostOp) (s : State) : (settle (microprogram op) s).answers = s.answers :=
  settle_induct_quiet (P := fun u => u.answers = s.answers)
    (fun u hu hP => by obtain ⟨_, _, _, _, _, _, _, -, -, -, h⟩ := tick_quiet op hu; rw [h]; exact hP) rfl

theorem settle_trace (op : HostOp) (s : State) : (settle (microprogram op) s).trace = s.trace :=
  settle_induct_quiet (P := fun u => u.trace = s.trace)
    (fun u hu hP => by obtain ⟨_, _, _, _, _, _, _, -, -, -, h⟩ := tick_quiet op hu; rw [h]; exact hP) rfl

/-! ### At most one event a step -/

/-- The second trace is the first with at most one entry more. -/
def AtMostOneEvent (s t : State) : Prop := t.trace = s.trace ∨ ∃ e : Entry, t.trace = s.trace ++ [e]

theorem tick_event_oneEvent (m : Microprogram) {s : State} (h : s.phase.atEvent = true) : AtMostOneEvent s (tick m s) := by
  obtain ⟨_, _, _, _, _, _, _, _, _, e, -, -, ht⟩ := tick_event m h
  exact .inr ⟨e, by rw [ht]⟩

theorem tick_oneEvent (op : HostOp) (s : State) : AtMostOneEvent s (tick (microprogram op) s) := by
  cases h : s.phase.atEvent with
  | true => exact tick_event_oneEvent _ h
  | false =>
    obtain ⟨_, _, _, _, _, _, _, -, -, -, ht⟩ := tick_quiet op h
    exact .inl (by rw [ht])

/-- Where no answer is fixed, acceptance makes no event. -/
theorem accept_noAnswers {op : HostOp} {load : State → State} {s t : State} (ha : (load s).answers = [])
    (ht : (load s).trace = s.trace) (h : accept (microprogram op) load s = .next t) : t.trace = s.trace := by
  unfold accept at h
  split at h
  · cases h
    rw [settle_answers, show ({ load s with phase := .validate } : State).answers = [] from ha, List.length_nil, advance_zero,
      settle_trace]
    exact ht
  · cases h

/-- Where no answer is fixed, a frame makes one event. -/
theorem issue_noAnswers {bytes : List Byte} {s t : State} (ha : s.answers = []) (h : issue bytes s = .next t) :
    AtMostOneEvent s t := by
  have he : (s.openWindow bytes).phase.atEvent = true := windowStart_atEvent _
  cases h
  rw [State.openWindow_answers, ha, show max 1 ([] : List Answer).length = 0 + 1 from rfl, runWindow_event 0 he ⟨id, id⟩]
  exact tick_event_oneEvent _ he

theorem decodeRequest_legal {r : Request} {i : Instr} (h : decodeRequest r = .ok i) : i.isHostOp = true ∧ i.wf = true := by
  unfold decodeRequest at h
  split at h
  case h_8 =>
    split at h
    · cases h
    · cases h; exact ⟨rfl, decide_eq_true (Nat.one_le_iff_ne_zero.2 ‹_›)⟩
  case h_10 => cases h
  all_goals cases h; exact ⟨rfl, rfl⟩

theorem windowInstr_legal {s : State} {i : Instr} (h : windowInstr s = .ok i) : i.isHostOp = false ∧ i.wf = true := by
  obtain ⟨-, hwf, hi⟩ := frameDecodeIsExact _ _ _ h
  exact ⟨hi, hwf⟩

/-- Settles O21: without fixed answers an accepted request stands at its first event, a frame makes one, and a phase transition makes
at most one. -/
theorem oneEventPerStep : Obligations.OneEventPerStep := by
  intro s t hs h
  obtain ⟨-, -, rfl⟩ | ⟨r, rest, i, hp, hr, hd, h⟩ | ⟨i, hp, hd, h⟩ | ⟨-, -, -, rfl⟩ := step_next_cases h
  · exact .inl rfl
  · have ha : s.answers = [] := hs.resolve_right fun hs => hs.1 hp
    obtain ⟨-, -, -, h⟩ := exec_hostOp_next (decodeRequest_legal hd).1 h
    obtain ⟨-, -, -, -, -, -, -, htrace, -, hanswers, -⟩ := latch_sameButRegisters i { s with program := rest }
    exact .inl (accept_noAnswers (s := { s with program := rest }) (hanswers.symm.trans ha) htrace.symm h)
  · have ha : s.answers = [] := hs.resolve_right fun hs => hp.elim hs.2.1 hs.2.2
    obtain ⟨bytes, l, hexec⟩ := exec_wire i s (windowInstr_legal hd).1 (windowInstr_legal hd).2
    rw [hexec] at h
    exact issue_noAnswers (s := { s with rlen := l }) ha h
  · exact tick_oneEvent s.op s

/-! ### What an event leaves alone -/

/-- The registers that no event writes. -/
structure EventKeeps (s t : State) : Prop where
  op : t.op = s.op
  addr : t.addr = s.addr
  data : t.data = s.data
  statIn : t.statIn = s.statIn
  buf : t.buf = s.buf
  rlen : t.rlen = s.rlen
  bIn : t.bIn = s.bIn
  idx : t.idx = s.idx
  stage : t.stage = s.stage
  blocking : t.blocking = s.blocking
  results : t.results = s.results
  program : t.program = s.program
  cfg : t.cfg = s.cfg

theorem tick_eventKeeps (m : Microprogram) {s u : State} (h : u.phase.atEvent = true) (hs : EventKeeps s u) :
    EventKeeps s (tick m u) := by
  obtain ⟨_, _, _, _, _, _, _, _, _, _, -, -, ht⟩ := tick_event m h
  obtain ⟨h1, h2, h3, h4, h5, h6, h7, h8, h9, h10, h11, h12, h13⟩ := hs
  rw [ht]
  exact ⟨h1, h2, h3, h4, h5, h6, h7, h8, h9, h10, h11, h12, h13⟩

theorem issue_eventKeeps {bytes : List Byte} {s t : State} (h : issue bytes s = .next t) : EventKeeps s t := by
  cases h
  exact runWindow_induct (P := EventKeeps s) (fun _ he hs => tick_eventKeeps _ he hs) _ _
    ⟨rfl, rfl, rfl, rfl, rfl, rfl, rfl, rfl, rfl, rfl, rfl, rfl, rfl⟩

theorem exec_wire_next {i : Instr} {s t : State} (hi : i.isHostOp = false) (h : exec i s = .next t) : i.wf = true := by
  cases i with
  | readMem a l => exact decide_eq_true (Nat.one_le_iff_ne_zero.2 (by rintro rfl; cases h))
  | read a l => cases hi
  | _ => rfl

/-- Every wire frame but READ loads no register but FRAME. -/
theorem exec_wire_keepsRlen {i : Instr} (s : State) (hi : i.isHostOp = false) (hr : ∀ a l, i ≠ .readMem a l) :
    ∃ bytes : List Byte, exec i s = issue bytes s := by
  cases i with
  | readMem a l => exact absurd rfl (hr a l)
  | rdsr => exact ⟨_, rfl⟩
  | wren => exact ⟨_, rfl⟩
  | wrdi => exact ⟨_, rfl⟩
  | wrsr p => exact ⟨_, rfl⟩
  | byteProg a d => exact ⟨_, rfl⟩
  | aaiFirst a x y => exact ⟨_, rfl⟩
  | aaiNext x y => exact ⟨_, rfl⟩
  | chipErase => exact ⟨_, rfl⟩
  | wsPrelude => exact ⟨_, rfl⟩
  | _ => cases hi

/-- Settles O29: a frame is a transaction, whose events write none of these; READ loads RLEN before it. -/
theorem wireFrameLeavesTheRest : Obligations.WireFrameLeavesTheRest := by
  intro i s t hi h
  obtain ⟨bytes, l, hexec⟩ := exec_wire i s hi (exec_wire_next hi h)
  obtain ⟨hop, haddr, hdata, hstat, hbuf, -, hbIn, hidx, hstage, hblocking, hresults, hprogram, hcfg⟩ :=
    issue_eventKeeps (hexec ▸ h)
  refine ⟨hop, haddr, hdata, hstat, hbuf, hbIn, hidx, hstage, hblocking, hresults, hprogram, hcfg, fun hr => ?_⟩
  obtain ⟨bytes, hexec⟩ := exec_wire_keepsRlen s hi hr
  exact (issue_eventKeeps (hexec ▸ h)).rlen

/-! ### What an operation leaves alone -/

/-- The registers that no phase transition of the operation `code` writes: the latches, the host's requests and the configuration,
`blocking` but for `set_blocking`, and IDX but for `aai_program`. -/
structure OperationKeeps (code : HostOp) (s t : State) : Prop where
  op : t.op = s.op
  addr : t.addr = s.addr
  data : t.data = s.data
  statIn : t.statIn = s.statIn
  buf : t.buf = s.buf
  rlen : t.rlen = s.rlen
  bIn : t.bIn = s.bIn
  program : t.program = s.program
  cfg : t.cfg = s.cfg
  blocking : code ≠ .setBlocking → t.blocking = s.blocking
  idx : code ≠ .aaiProgram → t.idx = s.idx

theorem operationKeeps_refl (op : HostOp) (s : State) : OperationKeeps op s s :=
  ⟨rfl, rfl, rfl, rfl, rfl, rfl, rfl, rfl, rfl, fun _ => rfl, fun _ => rfl⟩

theorem tick_operationKeeps {op : HostOp} {s : State} (u : State) (hs : OperationKeeps op s u) :
    OperationKeeps op s (tick (microprogram op) u) := by
  obtain ⟨h1, h2, h3, h4, h5, h6, h7, h8, h9, h10, h11⟩ := hs
  cases h : u.phase.atEvent with
  | true =>
    obtain ⟨_, _, _, _, _, _, _, _, _, _, -, -, ht⟩ := tick_event (microprogram op) h
    rw [ht]
    exact ⟨h1, h2, h3, h4, h5, h6, h7, h8, h9, h10, h11⟩
  | false =>
    obtain ⟨b, _, n, _, _, _, _, -, hb, hn, ht⟩ := tick_quiet op h
    rw [ht]
    refine ⟨h1, h2, h3, h4, h5, h6, h7, h8, h9, fun hop => ?_, fun hop => (hn hop).trans (h11 hop)⟩
    exact (not_not.1 fun hne => hop (hb hne).2 : b = u.blocking).trans (h10 hop)

theorem accept_operationKeeps {op : HostOp} {load : State → State} {s t : State}
    (h : accept (microprogram op) load s = .next t) : OperationKeeps op (load s) t :=
  accept_induct tick_operationKeeps
    ⟨rfl, rfl, rfl, rfl, rfl, rfl, rfl, rfl, rfl, fun _ => rfl, fun _ => rfl⟩ h

/-- An accepted host operation answers a next state, which still holds what was latched. -/
theorem exec_accepted {i : Instr} {s : State} (hi : i.isHostOp = true) (hwf : i.wf = true) (hb : s.cfg.admits i = true)
    (hp : s.phase = .idle) : ∃ t : State, exec i s = .next t ∧ OperationKeeps (latch i s).op (latch i s) t := by
  rw [exec_admitted hi hwf hb]
  exact ⟨_, accept_idle _ _ hp, accept_operationKeeps (accept_idle _ _ hp)⟩

/-- Settles O38: acceptance latches the request, and the operation writes none of its latches. -/
theorem acceptanceLatchesOperands : Obligations.AcceptanceLatchesOperands := by
  intro s hp
  have accepted (i : Instr) (hi : i.isHostOp = true) (hwf : i.wf = true) (hb : s.cfg.admits i = true) :=
    exec_accepted hi hwf hb hp
  refine ⟨?_, ?_, ?_, fun st => ?_, ?_, fun a d => ?_, fun a buf hb => ?_, fun a l hl hb => ?_, fun b => ?_⟩
  · obtain ⟨t, h, hk⟩ := accepted .readStatus rfl rfl rfl
    exact ⟨t, h, hk.op⟩
  · obtain ⟨t, h, hk⟩ := accepted .writeEnable rfl rfl rfl
    exact ⟨t, h, hk.op⟩
  · obtain ⟨t, h, hk⟩ := accepted .writeDisable rfl rfl rfl
    exact ⟨t, h, hk.op⟩
  · obtain ⟨t, h, hk⟩ := accepted (.writeStatus st) rfl rfl rfl
    exact ⟨t, h, hk.op, hk.statIn⟩
  · obtain ⟨t, h, hk⟩ := accepted .eraseFull rfl rfl rfl
    exact ⟨t, h, hk.op⟩
  · obtain ⟨t, h, hk⟩ := accepted (.byteProgram a d) rfl rfl rfl
    exact ⟨t, h, hk.op, hk.addr, hk.data⟩
  · obtain ⟨t, h, hk⟩ := accepted (.aaiProgram a buf) rfl rfl hb
    exact ⟨t, h, hk.op, hk.addr, hk.buf⟩
  · obtain ⟨t, h, hk⟩ := accepted (.read a l) rfl (decide_eq_true hl) hb
    exact ⟨t, h, hk.op, hk.addr, hk.rlen⟩
  · obtain ⟨t, h, hk⟩ := accepted (.setBlocking b) rfl rfl rfl
    exact ⟨t, h, hk.op, hk.bIn⟩

/-! ### The latches that an operation does not use -/

section
variable {i : Instr} (s : State)

theorem latch_bIn (h : ∀ b, i ≠ .setBlocking b) : (latch i s).bIn = s.bIn := by
  cases i with
  | setBlocking b => exact absurd rfl (h b)
  | _ => rfl

theorem latch_statIn (h : ∀ st, i ≠ .writeStatus st) : (latch i s).statIn = s.statIn := by
  cases i with
  | writeStatus st => exact absurd rfl (h st)
  | _ => rfl

theorem latch_data (h : ∀ a d, i ≠ .byteProgram a d) : (latch i s).data = s.data := by
  cases i with
  | byteProgram a d => exact absurd rfl (h a d)
  | _ => rfl

theorem latch_buf (h : ∀ a buf, i ≠ .aaiProgram a buf) : (latch i s).buf = s.buf := by
  cases i with
  | aaiProgram a buf => exact absurd rfl (h a buf)
  | _ => rfl

theorem latch_rlen (h : ∀ a l, i ≠ .read a l) : (latch i s).rlen = s.rlen := by
  cases i with
  | read a l => exact absurd rfl (h a l)
  | _ => rfl

theorem latch_addr (hb : ∀ a d, i ≠ .byteProgram a d) (ha : ∀ a buf, i ≠ .aaiProgram a buf) (hr : ∀ a l, i ≠ .read a l) :
    (latch i s).addr = s.addr := by
  cases i with
  | byteProgram a d => exact absurd rfl (hb a d)
  | aaiProgram a buf => exact absurd rfl (ha a buf)
  | read a l => exact absurd rfl (hr a l)
  | _ => rfl

theorem latch_idx (i : Instr) (s : State) : (latch i s).idx = s.idx := by cases i <;> rfl

theorem latch_op_ne_setBlocking (hi : i.isHostOp = true) (h : ∀ b, i ≠ .setBlocking b) : (latch i s).op ≠ .setBlocking := by
  cases i with
  | setBlocking b => exact absurd rfl (h b)
  | _ => simp [latch, Instr.isHostOp] at hi ⊢

theorem latch_op_ne_aaiProgram (hi : i.isHostOp = true) (h : ∀ a buf, i ≠ .aaiProgram a buf) : (latch i s).op ≠ .aaiProgram := by
  cases i with
  | aaiProgram a buf => exact absurd rfl (h a buf)
  | _ => simp [latch, Instr.isHostOp] at hi ⊢

end

/-- Settles O39: acceptance latches the operands that the operation uses, and the operation writes no latch. -/
theorem hostOperationLeavesTheRest : Obligations.HostOperationLeavesTheRest := by
  intro i s t hi h
  obtain ⟨-, -, -, h⟩ := exec_hostOp_next hi h
  obtain ⟨-, haddr, hdata, hstat, hbuf, hrlen, hbIn, hprogram, hcfg, hblocking, hidx⟩ := accept_operationKeeps h
  obtain ⟨-, hblocking', -, -, -, -, -, -, hprogram', -, hcfg'⟩ := latch_sameButRegisters i s
  refine ⟨hcfg.trans hcfg'.symm, hprogram.trans hprogram'.symm, fun hset => ⟨?_, ?_⟩, fun hst => ?_, fun hbp => ?_,
    fun haai => ⟨?_, ?_⟩, fun hrd => ?_, fun hbp haai hrd => ?_⟩
  · exact (hblocking (latch_op_ne_setBlocking s hi hset)).trans hblocking'.symm
  · exact hbIn.trans (latch_bIn s hset)
  · exact hstat.trans (latch_statIn s hst)
  · exact hdata.trans (latch_data s hbp)
  · exact hbuf.trans (latch_buf s haai)
  · exact (hidx (latch_op_ne_aaiProgram s hi haai)).trans (latch_idx i s)
  · exact hrlen.trans (latch_rlen s hrd)
  · exact haddr.trans (latch_addr s hbp haai hrd)

/-! ### What no step does -/

/-- The second state extends the first: no event and no result is undone, `configured` is not cleared, the configuration is the
same. -/
def Extends (s t : State) : Prop :=
  s.trace <+: t.trace ∧ s.results <+: t.results ∧ (s.configured = true → t.configured = true) ∧ t.cfg = s.cfg

theorem extends_refl (s : State) : Extends s s := ⟨List.prefix_rfl, List.prefix_rfl, id, rfl⟩

theorem Extends.trans {s t u : State} (h : Extends s t) (h' : Extends t u) : Extends s u := by
  obtain ⟨htrace, hresults, hconf, hcfg⟩ := h
  obtain ⟨htrace', hresults', hconf', hcfg'⟩ := h'
  exact ⟨htrace.trans htrace', hresults.trans hresults', hconf' ∘ hconf, hcfg'.trans hcfg⟩

theorem tick_event_extends (m : Microprogram) {s : State} (h : s.phase.atEvent = true) : Extends s (tick m s) := by
  obtain ⟨_, _, _, _, _, _, _, _, _, e, hc, -, ht⟩ := tick_event m h
  rw [ht]
  exact ⟨List.prefix_append _ _, List.prefix_rfl, hc, rfl⟩

theorem tick_extends (op : HostOp) (s : State) : Extends s (tick (microprogram op) s) := by
  cases h : s.phase.atEvent with
  | true => exact tick_event_extends _ h
  | false =>
    obtain ⟨_, _, _, _, _, _, _, hresults, -, -, ht⟩ := tick_quiet op h
    rw [ht]
    exact ⟨List.prefix_rfl, hresults, id, rfl⟩

theorem accept_extends {op : HostOp} {load : State → State} {s t : State} (hload : SameButRegisters s (load s))
    (h : accept (microprogram op) load s = .next t) : Extends s t := by
  obtain ⟨hconf, -, -, -, -, -, hresults, htrace, -, -, hcfg⟩ := hload
  refine accept_induct (P := Extends s) (fun u hu => hu.trans (tick_extends op u)) ⟨?_, ?_, ?_, ?_⟩ h
  · exact htrace ▸ List.prefix_rfl
  · exact hresults ▸ List.prefix_rfl
  · exact fun hs => hconf ▸ hs
  · exact hcfg.symm

theorem issue_extends {bytes : List Byte} {s t : State} (h : issue bytes s = .next t) : Extends s t := by
  cases h
  exact runWindow_induct (P := Extends s) (fun u he hu => hu.trans (tick_event_extends _ he)) _ _
    ⟨List.prefix_rfl, List.prefix_rfl, id, rfl⟩

theorem step_extends {s t : State} (h : step s = .next t) : Extends s t := by
  obtain ⟨-, -, rfl⟩ | ⟨r, rest, i, -, -, hd, h⟩ | ⟨i, -, hd, h⟩ | ⟨-, -, -, rfl⟩ := step_next_cases h
  · exact extends_refl _
  · obtain ⟨-, -, -, h⟩ := exec_hostOp_next (decodeRequest_legal hd).1 h
    exact accept_extends (s := { s with program := rest }) (latch_sameButRegisters i _) h
  · obtain ⟨bytes, l, hexec⟩ := exec_wire i s (windowInstr_legal hd).1 (windowInstr_legal hd).2
    exact issue_extends (s := { s with rlen := l }) (hexec ▸ h)
  · exact tick_extends s.op s

theorem tick_blocking {op : HostOp} {s : State} (h : (tick (microprogram op) s).blocking ≠ s.blocking) :
    s.phase = .validate ∧ op = .setBlocking := by
  cases he : s.phase.atEvent with
  | true =>
    obtain ⟨_, _, _, _, _, _, _, _, _, _, -, -, ht⟩ := tick_event (microprogram op) he
    rw [ht] at h
    exact absurd rfl h
  | false =>
    obtain ⟨_, _, _, _, _, _, _, -, hb, -, ht⟩ := tick_quiet op he
    rw [ht] at h
    exact hb h

/-- Settles O52: each kind of step extends the state, and the flag is written by `set_blocking` alone. -/
theorem stepOnlyExtends : Obligations.StepOnlyExtends := by
  intro s t h
  obtain ⟨htrace, hresults, hconf, hcfg⟩ := step_extends h
  refine ⟨htrace, hresults, hconf, hcfg, fun hb => ?_⟩
  obtain ⟨-, -, rfl⟩ | ⟨r, rest, i, hp, hr, hd, h⟩ | ⟨i, -, hd, h⟩ | ⟨-, -, -, rfl⟩ := step_next_cases h
  · exact absurd rfl hb
  · by_cases hset : ∃ b, i = .setBlocking b
    · obtain ⟨b, rfl⟩ := hset
      exact .inr ⟨hp, r, rest, b, hr, hd⟩
    · obtain ⟨-, -, hkeeps, -⟩ := hostOperationLeavesTheRest i _ t (decodeRequest_legal hd).1 h
      exact absurd (hkeeps fun b hi => hset ⟨b, hi⟩).1 hb
  · obtain ⟨bytes, l, hexec⟩ := exec_wire i s (windowInstr_legal hd).1 (windowInstr_legal hd).2
    exact absurd (issue_eventKeeps (s := { s with rlen := l }) (hexec ▸ h)).blocking hb
  · exact .inl (tick_blocking hb)

/-! ### Operations without a transaction -/

/-- Where VALIDATE raises an error the operation is over before any event, and nothing but its latches and the result is written. -/
theorem exec_rejected {i : Instr} {s : State} {k : OpError} (hi : i.isHostOp = true) (hwf : i.wf = true)
    (hb : s.cfg.admits i = true) (hp : s.phase = .idle)
    (hv : (microprogram (latch i s).op).validate (latched i s) = (latched i s).raise k) :
    exec i s = .next { latch i s with
      phase := .idle, result := some (.err k)
      results := (latch i s).results ++ [⟨.err k, (latch i s).configured, (latch i s).blocking⟩] } := by
  rw [exec_admitted hi hwf hb, accept_raises hp hv]

theorem rejectedUntouched_latch (i : Instr) (s : State) (k : OpError) :
    RejectedUntouched s { latch i s with
      phase := .idle, result := some (.err k)
      results := (latch i s).results ++ [⟨.err k, (latch i s).configured, (latch i s).blocking⟩] } k := by
  cases i <;> exact ⟨rfl, rfl, rfl, rfl, rfl, rfl, rfl, rfl, rfl, rfl, rfl, rfl⟩

/-- Settles O41: each of the three checks its address first. -/
theorem invalidAddressBeforeAnyEvent : Obligations.InvalidAddressBeforeAnyEvent := by
  intro a d buf l s hp ha hl
  refine ⟨⟨_, exec_rejected (i := .byteProgram a d) rfl rfl rfl hp (byteProgram_validate_raises ha),
      rejectedUntouched_latch (.byteProgram a d) s _⟩, fun hb => ?_, fun hb => ?_⟩
  · exact ⟨_, exec_rejected (i := .aaiProgram a buf) rfl rfl hb hp
      (aaiProgram_validate_raises (aaiChecks_invalidAddress ha)), rejectedUntouched_latch (.aaiProgram a buf) s _⟩
  · exact ⟨_, exec_rejected (i := .read a l) rfl (decide_eq_true hl) hb hp (read_validate_raises ha),
      rejectedUntouched_latch (.read a l) s _⟩

/-- An operation that reaches no transaction is `set_blocking`, or one whose operand checks fail. -/
theorem rejects_of_not_reachesTransaction {i : Instr} (s : State) (hi : i.isHostOp = true) (hwf : i.wf = true)
    (hr : Instr.reachesTransaction i = false) : (∃ b, i = .setBlocking b) ∨
    ∃ k : OpError, (microprogram (latch i s).op).validate (latched i s) = (latched i s).raise k := by
  cases i with
  | byteProgram a d =>
    exact .inr ⟨_, byteProgram_validate_raises (not_le.1 (of_decide_eq_false hr))⟩
  | aaiProgram a buf =>
    refine .inr ?_
    simp only [Instr.reachesTransaction, Bool.and_eq_false_iff, decide_eq_false_iff_not, not_le] at hr
    by_cases ha : 16777216 < a.toNat
    · exact ⟨_, aaiProgram_validate_raises (aaiChecks_invalidAddress ha)⟩
    · by_cases hl : buf.length < 2
      · exact ⟨_, aaiProgram_validate_raises (aaiChecks_bufferTooSmall (not_lt.1 ha) hl)⟩
      · exact ⟨_, aaiProgram_validate_raises
          (aaiChecks_bufferUneven (not_lt.1 ha) (not_lt.1 hl) (by show buf.length % 2 = 1; omega))⟩
  | read a l =>
    simp only [Instr.reachesTransaction, Bool.and_eq_false_iff, decide_eq_false_iff_not, not_le] at hr
    have hl : 1 ≤ l := of_decide_eq_true hwf
    exact .inr ⟨_, read_validate_raises (hr.resolve_right (not_lt.2 hl))⟩
  | setBlocking b => exact .inl ⟨b, rfl⟩
  | _ => simp [Instr.isHostOp, Instr.reachesTransaction] at hi hr

/-- Settles O43: neither `set_blocking` nor a rejected operation writes a work register. -/
theorem operationWithoutTransactionKeepsWorkRegisters : Obligations.OperationWithoutTransactionKeepsWorkRegisters := by
  intro i s t hi hr h
  obtain ⟨hp, hwf, hb, -⟩ := exec_hostOp_next hi h
  obtain ⟨b, rfl⟩ | ⟨k, hv⟩ := rejects_of_not_reachesTransaction s hi hwf hr
  · rw [setBlockingCompletes b s hp] at h
    cases h
    exact ⟨rfl, rfl, rfl, rfl⟩
  · rw [exec_rejected hi hwf hb hp hv] at h
    cases h
    cases i <;> exact ⟨rfl, rfl, rfl, rfl⟩

end Sys2Proof.Machine
end

section
/-!
PROOFS. The invariant of the block: reset meets it and every step keeps it, phase by phase (R27, R34, R97, R130 to R141, R231).
-/

namespace Sys2Proof.Machine

/-! ### The trace with one entry more -/

theorem windowAfter_append (trace : List Entry) (e : Entry) :
    windowAfter (trace ++ [e]) = (windowAfter trace).bind fun w => windowStep w e := by
  simp [windowAfter]

/-- Only a WP Low answered ok completes a successful configuration. -/
theorem successfulConfig_infix_append {trace : List Entry} {e : Entry} (he : e ≠ .lineSet .wp .low none) :
    successfulConfig <:+: trace ++ [e] ↔ successfulConfig <:+: trace := by
  have hlast : ¬ successfulConfig <:+ trace ++ [e] := by
    rintro ⟨pre, h⟩
    have h' : pre ++ [.lineSet .hold .high none] ++ [.lineSet .wp .low none] = trace ++ [e] := by
      rw [← h]; simp [successfulConfig]
    exact he (List.append_singleton_inj.1 h').2.symm
  rw [List.infix_concat_iff, or_iff_right hlast]

theorem traceOk_append {s t : State} {e : Entry} (hs : TraceOk s) (htrace : t.trace = s.trace ++ [e]) (hcfg : t.cfg = s.cfg)
    (hstep : ∀ w, windowMatches s.phase w = true → ∃ w', windowStep w e = some w' ∧ windowMatches t.phase w' = true)
    (hlegal : legalEntry s.cfg e = true) : TraceOk t := by
  obtain ⟨⟨w, hw, hm⟩, hall⟩ := hs
  obtain ⟨w', hw', hm'⟩ := hstep w hm
  refine ⟨⟨w', by rw [htrace, windowAfter_append, hw, Option.bind_some, hw'], hm'⟩, ?_⟩
  rw [htrace, hcfg]
  simpa [or_imp, forall_and] using ⟨hall, hlegal⟩

/-- An entry that is no WP Low answered ok leaves the account of the configuration as it is. -/
theorem configOk_append {s t : State} {e : Entry} (hs : ConfigOk s) (htrace : t.trace = s.trace ++ [e])
    (hconf : t.configured = s.configured) (he : e ≠ .lineSet .wp .low none) (hp : t.phase ≠ .cfgWp) : ConfigOk t := by
  refine ⟨?_, fun h => absurd h hp⟩
  rw [hconf, htrace, successfulConfig_infix_append he]
  exact hs.1

/-- What the levels are while no line command has failed, one entry earlier. -/
theorem cleanLines_of_append {s : State} {e : Entry} (hs : CleanLinesOk s) (h : ∀ e' ∈ s.trace ++ [e], failedLine e' = false) :
    (s.configured = false → s.ce = .x ∧ s.wp = .x ∧ s.hold = (if s.phase = .cfgWp then .high else .x)) ∧
    (s.configured = true → s.phase = .ceLow → s.ce = .x ∨ s.ce = .high) ∧
    (s.configured = true → (s.phase = .idle ∨ s.phase = .validate ∨ s.phase = .next ∨ s.phase = .respond) → s.ce = .high) :=
  hs fun e' he' => h e' (List.mem_append_left _ he')

theorem cleanLinesOk_of_failed {t : State} {trace : List Entry} {e : Entry} (htrace : t.trace = trace ++ [e])
    (he : failedLine e = true) : CleanLinesOk t := by
  intro h
  rw [htrace] at h
  exact absurd (h e (by simp)) (by simp [he])

/-! ### The exchanges are legal -/

theorem isReadCommand_iff {bytes : List Byte} : isReadCommand bytes = true ↔ ∃ a b c : Byte, bytes = [0x03, a, b, c] := by
  constructor
  · intro h
    match bytes, h with
    | [o, a, b, c], h =>
      simp [isReadCommand] at h
      exact ⟨a, b, c, by rw [h]; rfl⟩
  · rintro ⟨a, b, c, rfl⟩
    rfl

theorem dataExchangeFollows_iff (s : State) :
    dataExchangeFollows s = true ↔ s.cfg.readFraming = .split ∧ isReadCommand s.frame = true := by
  cases h : s.cfg.readFraming <;> simp [dataExchangeFollows, h]

theorem windowBytes_noData {s : State} (hd : dataExchangeFollows s = false) : windowBytes s = s.frame := by
  rw [windowBytes, hd]; rfl

/-- What FRAME holds at the start of a transaction may be sent (R97). -/
theorem legalExchange_frame {s : State} (h : (windowInstr s).toBool = true) : legalExchange s.cfg s.frame = true := by
  cases hd : dataExchangeFollows s with
  | true =>
    obtain ⟨hf, hr⟩ := (dataExchangeFollows_iff s).1 hd
    simp [legalExchange, hf, hr]
  | false =>
    rw [windowInstr, windowBytes_noData hd] at h
    simp [legalExchange, h]

/-- The dummy bytes of a split READ may be sent (R137). -/
theorem legalExchange_zeros {cfg : Config} {l : Nat} (hf : cfg.readFraming = .split) (hl : 1 ≤ l) :
    legalExchange cfg (zeros l) = true := by
  simp [legalExchange, hf, hl]

/-- A split READ whose window decodes has a data byte (R195). -/
theorem rlen_of_dataExchange {s : State} (hd : dataExchangeFollows s = true) (h : (windowInstr s).toBool = true) :
    1 ≤ s.rlen := by
  obtain ⟨a, b, c, hframe⟩ := isReadCommand_iff.1 ((dataExchangeFollows_iff s).1 hd).2
  by_contra hl
  have hzero : s.rlen = 0 := by omega
  rw [windowInstr, windowBytes, if_pos hd, hframe, hzero] at h
  exact absurd h (by simp [decodeFrame, decodeLonger, zeros, Except.toBool])

/-! ### The phases without an event -/

/-- Whether two states agree at the ports: the lines, their configuration, the trace and the parameters. -/
def SamePorts (s t : State) : Prop :=
  t.configured = s.configured ∧ t.trace = s.trace ∧ t.ce = s.ce ∧ t.wp = s.wp ∧ t.hold = s.hold ∧ t.cfg = s.cfg

/-- Between two events the ports stay as they are, and what the invariant says of them with them. -/
theorem inv_of_samePorts {s t : State} (hs : Inv s) (hq : s.phase.atEvent = false)
    (hp : t.phase = .idle ∨ t.phase = .validate ∨ t.phase = .respond ∨ t.phase = windowStart s.configured)
    (hports : SamePorts s t) (hframe : FrameOk t) (hresult : ResultOk t) : Inv t := by
  obtain ⟨hconf, htrace, hce, hwp, hhold, hcfg⟩ := hports
  have hp' : t.phase = .idle ∨ t.phase = .validate ∨ t.phase = .respond ∨ (t.phase = .cfgHold ∧ s.configured = false) ∨
      (t.phase = .ceLow ∧ s.configured = true) := by
    cases hc : s.configured <;> simpa [hc, windowStart] using hp
  have hquiet : s.phase = .idle ∨ s.phase = .validate ∨ s.phase = .next ∨ s.phase = .respond := by
    cases h : s.phase <;> simp [h, Phase.atEvent] at hq ⊢
  have hnotWp : t.phase ≠ .cfgWp := by obtain h | h | h | ⟨h, -⟩ | ⟨h, -⟩ := hp' <;> simp [h]
  have hnotWp' : s.phase ≠ .cfgWp := by obtain h | h | h | h := hquiet <;> simp [h]
  refine ⟨?_, ⟨?_, fun h => absurd h hnotWp⟩, ⟨?_, fun h => absurd h hnotWp, ?_⟩, fun hclean => ⟨fun hc => ?_, fun hc _ => .inr ?_,
    fun hc _ => ?_⟩, hframe, hresult, ?_⟩
  · intro b hb
    rw [hconf]
    obtain h | h | h | ⟨h, hc⟩ | ⟨h, hc⟩ := hp' <;> rw [h] at hb <;> cases hb <;> exact hc
  · rw [hconf, htrace]; exact hs.configOk.1
  · rw [hconf, hhold, hwp]; exact hs.linesOk.1
  · rintro (h | h | h) <;> simp [h] at hp'
  · obtain ⟨hx, -, -⟩ := hs.cleanLinesOk (htrace ▸ hclean)
    rw [hce, hwp, hhold, if_neg hnotWp]
    rw [if_neg hnotWp'] at hx
    exact hx (hconf ▸ hc)
  · obtain ⟨-, -, hhigh⟩ := hs.cleanLinesOk (htrace ▸ hclean)
    exact hce.trans (hhigh (hconf ▸ hc) hquiet)
  · obtain ⟨-, -, hhigh⟩ := hs.cleanLinesOk (htrace ▸ hclean)
    exact hce.trans (hhigh (hconf ▸ hc) hquiet)
  · obtain ⟨⟨w, hw, hm⟩, hall⟩ := hs.traceOk
    have hclosed : w = .closed := by obtain h | h | h | h := hquiet <;> simpa [h, windowMatches] using hm
    subst hclosed
    refine ⟨⟨_, htrace ▸ hw, ?_⟩, by rw [htrace, hcfg]; exact hall⟩
    obtain h | h | h | ⟨h, -⟩ | ⟨h, -⟩ := hp' <;> rw [h] <;> rfl

/-- A transaction begins with a frame of the grammar. -/
theorem inv_beginTxn {s : State} (hs : Inv s) (hq : s.phase.atEvent = false) {g : Stage} {f : List Byte} {n : Nat}
    (hop : s.op ≠ .setBlocking) (hf : (windowInstr (State.beginTxn g f { s with idx := n })).toBool = true) :
    Inv (State.beginTxn g f { s with idx := n }) := by
  refine inv_of_samePorts hs hq (.inr (.inr (.inr rfl))) ⟨rfl, rfl, rfl, rfl, rfl, rfl⟩ ⟨fun _ => hf, ?_, ?_, ?_⟩
    ⟨?_, fun h => absurd h hop⟩
  all_goals cases s.configured <;> simp [windowStart]

/-- The operation ends with a result it can have. -/
theorem inv_ends {s : State} (hs : Inv s) (hq : s.phase.atEvent = false) {b : Bool} {r : OpResult}
    (hr : ∀ k, r = .err k → mayRaise s.op k = true) : Inv { s with blocking := b, phase := .respond, result := some r } :=
  inv_of_samePorts hs hq (.inr (.inr (.inl rfl))) ⟨rfl, rfl, rfl, rfl, rfl, rfl⟩ (by simp [FrameOk])
    ⟨fun _ => ⟨r, rfl, hr⟩, fun _ => .inr (.inr rfl)⟩

theorem inv_respond {s : State} (hs : Inv s) (hp : s.phase = .respond) : Inv s.respond :=
  inv_of_samePorts hs (by rw [hp]; rfl) (.inl (State.respond_phase s))
    ⟨State.respond_configured s, State.respond_trace s, State.respond_ce s, State.respond_wp s, State.respond_hold s,
      State.respond_cfg s⟩ (by simp [FrameOk]) (by simp [ResultOk])

/-- A request is latched. -/
theorem inv_latched {s t : State} (hs : Inv s) (hp : s.phase = .idle) (hport : SamePorts s t) (ht : t.phase = .validate)
    (hr : t.op = .read → 1 ≤ t.rlen) : Inv t :=
  inv_of_samePorts hs (by rw [hp]; rfl) (.inr (.inl ht)) hport
    ⟨fun h => by simp [ht] at h, fun h => by simp [ht] at h, fun h => by simp [ht] at h, fun _ => hr⟩
    ⟨fun h => by simp [ht] at h, fun _ => .inr (.inl ht)⟩

theorem inv_quiet {s : State} (hs : Inv s) (hq : s.phase.atEvent = false) : Inv (tick (microprogram s.op) s) := by
  cases hp : s.phase with
  | idle => simpa only [tick, hp] using hs
  | validate =>
    simp only [tick, hp]
    obtain ⟨g, f, h, hop, hf⟩ | ⟨k, h, hk⟩ | ⟨-, h⟩ := validate_cases s.op s (hs.frameOk.2.2.2 hp) <;> rw [h]
    · exact inv_beginTxn (n := s.idx) hs hq hop hf
    · exact inv_ends (b := s.blocking) hs hq fun k' h => by cases h; exact hk
    · exact inv_ends hs hq fun k' h => by cases h
  | next =>
    have hop : s.op ≠ .setBlocking := fun h => by simpa [hp] using hs.resultOk.2 h
    simp only [tick, hp]
    obtain ⟨g, f, n, h, hf⟩ | ⟨k, h, hk⟩ | ⟨v, h⟩ := next_continues s.op s <;> rw [h]
    · exact inv_beginTxn hs hq hop hf
    · exact inv_ends (b := s.blocking) hs hq fun k' h => by cases h; exact hk
    · exact inv_ends (b := s.blocking) hs hq fun k' h => by cases h
  | respond => simpa only [tick, hp] using inv_respond hs hp
  | _ => rw [hp] at hq; cases hq

/-! ### The events -/

theorem op_ne_setBlocking {s : State} (hs : Inv s) (h : s.phase.atEvent = true) : s.op ≠ .setBlocking := by
  intro hop
  obtain hp | hp | hp := hs.resultOk.2 hop <;> simp [hp, Phase.atEvent] at h

/-- Every operation with a transaction can end with the failures of a transaction (R231). -/
theorem mayRaise_transaction {op : HostOp} (hop : op ≠ .setBlocking) :
    (∀ e, mayRaise op (.transferFailure e) = true) ∧ (∀ e, mayRaise op (.enableLineFailure e) = true) ∧
    (∀ e, mayRaise op (.holdLineFailure e) = true) ∧ ∀ e, mayRaise op (.writeProtectLineFailure e) = true := by
  cases op with
  | setBlocking => exact absurd rfl hop
  | _ => exact ⟨fun _ => rfl, fun _ => rfl, fun _ => rfl, fun _ => rfl⟩

/-- A line command fails: the operation ends, the trace has a failed line command, and no window is open. -/
theorem inv_lineFailed {s : State} (hs : Inv s) {l : Line} {v : Drive} {e : LineError} {k : OpError} {ce wp hold : Level}
    {rest : List Answer} (hstatic : s.configured = true → hold = s.hold ∧ wp = s.wp) (hk : mayRaise s.op k = true)
    (hw : ∀ w, windowMatches s.phase w = true → windowStep w (.lineSet l v (some e)) = some .closed) :
    Inv { s with
      ce := ce, wp := wp, hold := hold, phase := .respond, result := some (.err k), answers := rest
      trace := s.trace ++ [.lineSet l v (some e)] } where
  phaseOk := by intro b hb; cases hb
  configOk := configOk_append hs.configOk rfl rfl (by simp) (by simp)
  linesOk := by
    refine ⟨fun hc => ?_, by simp, by simp⟩
    obtain ⟨hh, hp⟩ := hstatic hc
    obtain ⟨hh', hp'⟩ := hs.linesOk.1 hc
    exact ⟨hh.trans hh', hp.trans hp'⟩
  cleanLinesOk := cleanLinesOk_of_failed rfl rfl
  frameOk := by simp [FrameOk]
  resultOk := ⟨fun _ => ⟨_, rfl, fun k' h => by cases h; exact hk⟩, fun _ => .inr (.inr rfl)⟩
  traceOk := traceOk_append hs.traceOk rfl rfl (fun w hm => ⟨_, hw w hm, rfl⟩) rfl

/-- An exchange is answered, and the release is next. -/
theorem inv_exchanged {s : State} (hs : Inv s) (hp : s.phase = .xfer ∨ s.phase = .xfer2) {rx : List Byte} {x : XRes}
    {r : BusReply} {rest : List Answer} (hrx : x = .ok → rx.length = s.frame.length)
    (hlegal : legalEntry s.cfg (.xfer s.frame r) = true) :
    Inv { s with
      rx := rx, xres := x, phase := .ceHigh, answers := rest, trace := s.trace ++ [.xfer s.frame r] } := by
  have hce : s.ce = .low := hs.linesOk.2.2 (hp.elim .inl fun h => .inr (.inl h))
  have hconf : s.configured = true := hs.phaseOk true (by obtain h | h := hp <;> rw [h] <;> rfl)
  have hop : s.op ≠ .setBlocking := op_ne_setBlocking hs (by obtain h | h := hp <;> rw [h] <;> rfl)
  refine ⟨fun b hb => by cases hb; exact hconf, configOk_append hs.configOk rfl rfl (by simp) (by simp),
    ⟨hs.linesOk.1, by simp, fun _ => hce⟩, fun _ => ⟨fun hc => ?_, by simp, by simp⟩, ?_, ⟨by simp, fun h => absurd h hop⟩,
    traceOk_append hs.traceOk rfl rfl (fun w hm => ?_) hlegal⟩
  · exact absurd (hconf.symm.trans hc) (by simp)
  · exact ⟨by simp, by simp, by simpa using hrx, by simp⟩
  · obtain h | h := hp
    · have hw : w = .selected := by simpa [h, windowMatches] using hm
      subst hw
      cases r <;> exact ⟨_, rfl, rfl⟩
    · have hw : w = .exchanged true := by simpa [h, windowMatches] using hm
      subst hw
      exact ⟨_, rfl, rfl⟩

section
variable {s : State} (hs : Inv s)
include hs

theorem inv_cfgHold (hp : s.phase = .cfgHold) : Inv (tick (microprogram s.op) s) := by
  have hop : s.op ≠ .setBlocking := op_ne_setBlocking hs (by rw [hp]; rfl)
  have hconf : s.configured = false := hs.phaseOk false (by rw [hp]; rfl)
  have hclosed (w : WindowState) (hm : windowMatches s.phase w = true) : w = .closed := by simpa [hp, windowMatches] using hm
  obtain h | ⟨e, h⟩ := tick_cfgHold_cases (microprogram s.op) hp <;> rw [h]
  · refine ⟨fun b hb => by cases hb; exact hconf, ⟨?_, fun _ => List.suffix_append ..⟩,
      ⟨fun hc => absurd (hconf.symm.trans hc) (by simp), fun _ => rfl, by simp⟩, fun hclean => ⟨fun hc => ?_, by simp, by simp⟩,
      ⟨fun _ => hs.frameOk.1 (.inl hp), by simp, by simp, by simp⟩, ⟨by simp, fun h => absurd h hop⟩,
      traceOk_append hs.traceOk rfl rfl (fun w hm => ?_) rfl⟩
    · rw [successfulConfig_infix_append (by simp)]; exact hs.configOk.1
    · obtain ⟨hx, -, -⟩ := cleanLines_of_append hs.cleanLinesOk hclean
      obtain ⟨hce, hwp, -⟩ := hx hc
      exact ⟨hce, hwp, rfl⟩
    · obtain rfl := hclosed w hm
      exact ⟨_, rfl, rfl⟩
  · refine inv_lineFailed hs (fun hc => absurd (hconf.symm.trans hc) (by simp)) ((mayRaise_transaction hop).2.2.1 e) fun w hm => ?_
    obtain rfl := hclosed w hm
    rfl

theorem inv_cfgWp (hp : s.phase = .cfgWp) : Inv (tick (microprogram s.op) s) := by
  have hop : s.op ≠ .setBlocking := op_ne_setBlocking hs (by rw [hp]; rfl)
  have hconf : s.configured = false := hs.phaseOk false (by rw [hp]; rfl)
  have hclosed (w : WindowState) (hm : windowMatches s.phase w = true) : w = .closed := by simpa [hp, windowMatches] using hm
  obtain h | ⟨e, h⟩ := tick_cfgWp_cases (microprogram s.op) hp <;> rw [h]
  · refine ⟨fun b hb => by cases hb; rfl, ⟨iff_of_true rfl ?_, by simp⟩, ⟨fun _ => ⟨hs.linesOk.2.1 hp, rfl⟩, by simp, by simp⟩,
      fun hclean => ⟨by simp, fun _ _ => .inl ?_, by simp⟩,
      ⟨fun _ => hs.frameOk.1 (.inr (.inl hp)), by simp, by simp, by simp⟩, ⟨by simp, fun h => absurd h hop⟩,
      traceOk_append hs.traceOk rfl rfl (fun w hm => ?_) rfl⟩
    · obtain ⟨pre, hpre⟩ := hs.configOk.2 hp
      exact ⟨pre, [], by simp [← hpre, successfulConfig]⟩
    · obtain ⟨hx, -, -⟩ := cleanLines_of_append hs.cleanLinesOk hclean
      exact (hx hconf).1
    · obtain rfl := hclosed w hm
      exact ⟨_, rfl, rfl⟩
  · refine inv_lineFailed hs (fun hc => absurd (hconf.symm.trans hc) (by simp)) ((mayRaise_transaction hop).2.2.2 e) fun w hm => ?_
    obtain rfl := hclosed w hm
    rfl

theorem inv_ceLow (hp : s.phase = .ceLow) : Inv (tick (microprogram s.op) s) := by
  have hop : s.op ≠ .setBlocking := op_ne_setBlocking hs (by rw [hp]; rfl)
  have hconf : s.configured = true := hs.phaseOk true (by rw [hp]; rfl)
  have hclosed (w : WindowState) (hm : windowMatches s.phase w = true) : w = .closed := by simpa [hp, windowMatches] using hm
  obtain h | ⟨e, h⟩ := tick_ceLow_cases (microprogram s.op) hp <;> rw [h]
  · refine ⟨fun b hb => by cases hb; exact hconf, configOk_append hs.configOk rfl rfl (by simp) (by simp),
      ⟨hs.linesOk.1, by simp, fun _ => rfl⟩, fun _ => ⟨fun hc => absurd (hconf.symm.trans hc) (by simp), by simp, by simp⟩,
      ⟨fun _ => hs.frameOk.1 (.inr (.inr (.inl hp))), by simp, by simp, by simp⟩, ⟨by simp, fun h => absurd h hop⟩,
      traceOk_append hs.traceOk rfl rfl (fun w hm => ?_) rfl⟩
    obtain rfl := hclosed w hm
    exact ⟨_, rfl, rfl⟩
  · refine inv_lineFailed hs (fun _ => ⟨rfl, rfl⟩) ((mayRaise_transaction hop).2.1 e) fun w hm => ?_
    obtain rfl := hclosed w hm
    rfl

theorem inv_xfer (hp : s.phase = .xfer) : Inv (tick (microprogram s.op) s) := by
  have hwindow : (windowInstr s).toBool = true := hs.frameOk.1 (.inr (.inr (.inr hp)))
  have hlegal : legalExchange s.cfg s.frame = true := legalExchange_frame hwindow
  obtain ⟨rx, hl, -, h⟩ | ⟨rx, hl, hd, h⟩ | ⟨e, h⟩ := tick_xfer_cases (microprogram s.op) hp <;> rw [h]
  · exact inv_exchanged hs (.inl hp) (fun _ => hl) (by simp [legalEntry, hlegal, hl])
  · have hop : s.op ≠ .setBlocking := op_ne_setBlocking hs (by rw [hp]; rfl)
    have hconf : s.configured = true := hs.phaseOk true (by rw [hp]; rfl)
    refine ⟨fun b hb => by cases hb; exact hconf, configOk_append hs.configOk rfl rfl (by simp) (by simp),
      ⟨hs.linesOk.1, by simp, fun _ => hs.linesOk.2.2 (.inl hp)⟩,
      fun _ => ⟨fun hc => absurd (hconf.symm.trans hc) (by simp), by simp, by simp⟩,
      ⟨by simp, fun _ => ⟨((dataExchangeFollows_iff s).1 hd).1, rfl, rlen_of_dataExchange (s := s) hd hwindow⟩, by simp, by simp⟩,
      ⟨by simp, fun h => absurd h hop⟩,
      traceOk_append hs.traceOk rfl rfl (fun w hm => ?_) (by simp [legalEntry, hlegal, hl])⟩
    have hw : w = .selected := by simpa [hp, windowMatches] using hm
    subst hw
    exact ⟨_, rfl, rfl⟩
  · exact inv_exchanged hs (.inl hp) (by simp) hlegal

theorem inv_xfer2 (hp : s.phase = .xfer2) : Inv (tick (microprogram s.op) s) := by
  obtain ⟨hf, hframe, hl⟩ := hs.frameOk.2.1 hp
  have hlegal : legalExchange s.cfg s.frame = true := hframe ▸ legalExchange_zeros hf hl
  obtain ⟨rx, hrx, h⟩ | ⟨e, h⟩ := tick_xfer2_cases (microprogram s.op) hp <;> rw [h]
  · exact inv_exchanged hs (.inr hp) (fun _ => hrx) (by simp [legalEntry, hlegal, hrx])
  · exact inv_exchanged hs (.inr hp) (by simp) hlegal

theorem inv_ceHigh (hp : s.phase = .ceHigh) : Inv (tick (microprogram s.op) s) := by
  have hop : s.op ≠ .setBlocking := op_ne_setBlocking hs (by rw [hp]; rfl)
  have hconf : s.configured = true := hs.phaseOk true (by rw [hp]; rfl)
  have hreleased (r : Option LineError) (w : WindowState) (hm : windowMatches s.phase w = true) :
      windowStep w (.lineSet .ce .high r) = some .closed := by
    obtain rfl | rfl : w = .exchanged true ∨ w = .exchanged false := by simpa [hp, windowMatches] using hm
    · rfl
    · rfl
  obtain ⟨hx, h⟩ | ⟨e, -, h⟩ | ⟨e, h⟩ := tick_ceHigh_cases (microprogram s.op) hp <;> rw [h]
  · refine ⟨fun b hb => by cases hb; exact hconf, configOk_append hs.configOk rfl rfl (by simp) (by simp),
      ⟨hs.linesOk.1, by simp, by simp⟩, fun _ => ⟨fun hc => absurd (hconf.symm.trans hc) (by simp), by simp, fun _ _ => rfl⟩,
      ⟨by simp, by simp, fun _ => hs.frameOk.2.2.1 (.inr ⟨hp, hx⟩), by simp⟩, ⟨by simp, fun h => absurd h hop⟩,
      traceOk_append hs.traceOk rfl rfl (fun w hm => ⟨_, hreleased none w hm, rfl⟩) rfl⟩
  · refine ⟨fun b hb => (by cases hb), configOk_append hs.configOk rfl rfl (by simp) (by simp),
      ⟨hs.linesOk.1, by simp, by simp⟩, fun _ => ⟨fun hc => absurd (hconf.symm.trans hc) (by simp), by simp, fun _ _ => rfl⟩,
      by simp [FrameOk], ⟨fun _ => ⟨_, rfl, fun k h => ?_⟩, fun _ => .inr (.inr rfl)⟩,
      traceOk_append hs.traceOk rfl rfl (fun w hm => ⟨_, hreleased none w hm, rfl⟩) rfl⟩
    cases h
    exact (mayRaise_transaction hop).1 e
  · exact inv_lineFailed hs (fun _ => ⟨rfl, rfl⟩) ((mayRaise_transaction hop).2.1 e) (hreleased _)

theorem inv_tick : Inv (tick (microprogram s.op) s) := by
  cases hp : s.phase with
  | cfgHold => exact inv_cfgHold hs hp
  | cfgWp => exact inv_cfgWp hs hp
  | ceLow => exact inv_ceLow hs hp
  | xfer => exact inv_xfer hs hp
  | xfer2 => exact inv_xfer2 hs hp
  | ceHigh => exact inv_ceHigh hs hp
  | _ => exact inv_quiet hs (by rw [hp]; rfl)

end

/-! ### The steps -/

/-- Settles O54: the block is idle, nothing is in the trace, and the lines are not known. -/
theorem resetMeetsInvariant : Obligations.ResetMeetsInvariant where
  phaseOk := by intro b hb; cases hb
  configOk := by simp [ConfigOk, State.reset, successfulConfig]
  linesOk := by simp [LinesOk, State.reset]
  cleanLinesOk := by simp [CleanLinesOk, State.reset]
  frameOk := by simp [FrameOk, State.reset]
  resultOk := by simp [ResultOk, State.reset]
  traceOk := ⟨⟨.closed, rfl, rfl⟩, by simp [State.reset]⟩

theorem tick_op (op : HostOp) (s : State) : (tick (microprogram op) s).op = s.op :=
  (tick_operationKeeps (op := op) s (operationKeeps_refl op s)).op

/-- The latched request of a host operation in a block that meets the invariant. -/
theorem inv_latch {s : State} {i : Instr} (hs : Inv s) (hp : s.phase = .idle) (hi : i.isHostOp = true) (hwf : i.wf = true) :
    Inv (latched i s) := by
  obtain ⟨hconf, -, -, hce, hwp, hhold, -, htrace, -, -, hcfg⟩ := latch_sameButRegisters i s
  refine inv_latched hs hp ⟨hconf.symm, htrace.symm, hce.symm, hwp.symm, hhold.symm, hcfg.symm⟩ rfl ?_
  cases i with
  | read a l => exact fun _ => of_decide_eq_true hwf
  | _ => simp [latched, latch, Instr.isHostOp] at hi ⊢

theorem inv_withProgram {s : State} (hs : Inv s) (rest : List Request) : Inv { s with program := rest } :=
  ⟨hs.phaseOk, hs.configOk, hs.linesOk, hs.cleanLinesOk, hs.frameOk, hs.resultOk, hs.traceOk⟩

theorem openWindow_legal {s : State} {f : List Byte} (h4 : f.length ≠ 4)
    (hd : (decodeFrame s.cfg.wsPrelude f).toBool = true) : (windowInstr (s.openWindow f)).toBool = true := by
  rw [windowInstr_of_frame h4]; exact hd

/-- Every well-formed wire frame opens a window with a frame of the grammar. -/
theorem exec_wire_legal {i : Instr} (s : State) (hi : i.isHostOp = false) (hwf : i.wf = true) :
    ∃ (bytes : List Byte) (l : Nat), exec i s = issue bytes { s with rlen := l } ∧
      (windowInstr (State.openWindow bytes { s with rlen := l })).toBool = true := by
  cases i with
  | rdsr => exact ⟨rdsrBytes, s.rlen, rfl, openWindow_legal (by decide) rfl⟩
  | wren => exact ⟨wrenBytes, s.rlen, rfl, openWindow_legal (by decide) rfl⟩
  | wrdi => exact ⟨wrdiBytes, s.rlen, rfl, openWindow_legal (by decide) rfl⟩
  | wrsr p => exact ⟨wrsrBytes (protectionByte p), s.rlen, rfl, openWindow_legal (by simp [wrsrBytes]) (decodeFrame_wrsr _ p)⟩
  | byteProg a d => exact ⟨byteProgBytes a d, s.rlen, rfl, openWindow_legal (by simp [byteProgBytes]) rfl⟩
  | aaiFirst a x y => exact ⟨aaiFirstBytes a x y, s.rlen, rfl, openWindow_legal (by simp [aaiFirstBytes]) rfl⟩
  | aaiNext x y => exact ⟨aaiNextBytes x y, s.rlen, rfl, openWindow_legal (by simp [aaiNextBytes]) rfl⟩
  | chipErase => exact ⟨chipEraseBytes, s.rlen, rfl, openWindow_legal (by decide) rfl⟩
  | readMem a l =>
    have hl : 1 ≤ l := of_decide_eq_true hwf
    refine ⟨readFrame s.cfg a l, l, if_neg (Nat.one_le_iff_ne_zero.1 hl), ?_⟩
    rw [windowInstr_of_read (s := State.openWindow (readFrame s.cfg a l) { s with rlen := l }) rfl hl]; rfl
  | wsPrelude => exact ⟨preludeBytes s.cfg.wsPrelude, s.rlen, rfl, openWindow_legal (by simp [preludeBytes]) (decodeFrame_prelude _)⟩
  | _ => cases hi

theorem inv_openWindow {s : State} {f : List Byte} {l : Nat} (hs : Inv s) (hp : s.phase = .cfgHold ∨ s.phase = .ceLow)
    (hf : (windowInstr (State.openWindow f { s with rlen := l })).toBool = true) :
    Inv (State.openWindow f { s with rlen := l }) := by
  have hstart : windowStart s.configured = s.phase := by
    obtain h | h := hp
    · rw [hs.phaseOk false (by rw [h]; rfl), h]; rfl
    · rw [hs.phaseOk true (by rw [h]; rfl), h]; rfl
  have hframe : FrameOk (State.openWindow f { s with rlen := l }) := by
    refine ⟨fun _ => hf, ?_, ?_, ?_⟩ <;> rw [State.openWindow_phase, hstart] <;> obtain h | h := hp <;> simp [h]
  rw [State.openWindow, hstart] at hframe ⊢
  exact ⟨hs.phaseOk, hs.configOk, hs.linesOk, hs.cleanLinesOk, hframe, hs.resultOk, hs.traceOk⟩

/-- A property that latching a request, opening a window and each phase transition give or keep in the states that meet the invariant,
holds after a step, with the invariant. -/
theorem step_induct {s t : State} {P : State → Prop} (hs : Inv s) (h : step s = .next t) (hself : P s)
    (hlatch : ∀ (i : Instr) (rest : List Request), P (latched i { s with program := rest }))
    (hopen : ∀ (f : List Byte) (l : Nat), P (State.openWindow f { s with rlen := l }))
    (htick : ∀ u : State, Inv u → P u → P (tick (microprogram u.op) u)) : Inv t ∧ P t := by
  have hkeep (op : HostOp) (u : State) : (Inv u ∧ P u) ∧ u.op = op →
      (Inv (tick (microprogram op) u) ∧ P (tick (microprogram op) u)) ∧ (tick (microprogram op) u).op = op := by
    rintro ⟨⟨hu, hP⟩, rfl⟩
    exact ⟨⟨inv_tick hu, htick u hu hP⟩, tick_op _ u⟩
  obtain ⟨-, -, rfl⟩ | ⟨r, rest, i, hp, -, hd, h⟩ | ⟨i, hp, hd, h⟩ | ⟨-, -, -, rfl⟩ := step_next_cases h
  · exact ⟨hs, hself⟩
  · obtain ⟨hi, hwf⟩ := decodeRequest_legal hd
    obtain ⟨-, -, -, h⟩ := exec_hostOp_next hi h
    exact (accept_induct (P := fun u => (Inv u ∧ P u) ∧ u.op = (latch i { s with program := rest }).op) (hkeep _)
      ⟨⟨inv_latch (inv_withProgram hs rest) hp hi hwf, hlatch i rest⟩, rfl⟩ h).1
  · obtain ⟨hi, hwf⟩ := windowInstr_legal hd
    obtain ⟨bytes, l, hexec, hf⟩ := exec_wire_legal s hi hwf
    rw [hexec] at h
    cases h
    refine (runWindow_induct (P := fun u => (Inv u ∧ P u) ∧ u.op = s.op) (fun u he hu => ?_) _ _
      ⟨⟨inv_openWindow hs hp hf, hopen bytes l⟩, rfl⟩).1
    rw [tick_atEvent _ (microprogram s.op) he]
    exact hkeep _ u hu
  · exact ⟨inv_tick hs, htick s hs hself⟩

/-- Settles O55: a step is made of phase transitions, and each of them keeps the invariant (`inv_tick`). -/
theorem everyStepKeepsInvariant : Obligations.EveryStepKeepsInvariant := by
  intro s t hs h
  exact (step_induct (P := fun _ => True) hs h trivial (fun _ _ => trivial) (fun _ _ => trivial) (fun _ _ _ => trivial)).1

/-! ### Consequences of the invariant -/

/-- What is left alone since a state `s` that was configured: the static lines, with no command of theirs in the trace. -/
def StaticLinesAlone (s u : State) : Prop :=
  u.configured = true ∧ u.hold = s.hold ∧ u.wp = s.wp ∧ ∃ new : List Entry, u.trace = s.trace ++ new ∧
    ∀ e ∈ new, ∀ (v : Drive) (r : Option LineError), e ≠ .lineSet .hold v r ∧ e ≠ .lineSet .wp v r

theorem staticLinesAlone_refl {s : State} (hc : s.configured = true) : StaticLinesAlone s s :=
  ⟨hc, rfl, rfl, [], by simp, by simp⟩

theorem staticLinesAlone_append {s u t : State} {e : Entry} (hu : StaticLinesAlone s u)
    (he : ∀ (v : Drive) (r : Option LineError), e ≠ .lineSet .hold v r ∧ e ≠ .lineSet .wp v r)
    (ht : t.configured = u.configured ∧ t.hold = u.hold ∧ t.wp = u.wp ∧ t.trace = u.trace ++ [e]) : StaticLinesAlone s t := by
  obtain ⟨hc, hhold, hwp, new, htrace, hnew⟩ := hu
  obtain ⟨hc', hhold', hwp', htrace'⟩ := ht
  refine ⟨hc'.trans hc, hhold'.trans hhold, hwp'.trans hwp, new ++ [e], by rw [htrace', htrace, List.append_assoc], ?_⟩
  intro e' he'
  obtain h | h := List.mem_append.1 he'
  · exact hnew e' h
  · obtain rfl := List.mem_singleton.1 h
    exact he

theorem tick_staticLinesAlone {s u : State} (hinv : Inv u) (hu : StaticLinesAlone s u) :
    StaticLinesAlone s (tick (microprogram u.op) u) := by
  have hc : u.configured = true := hu.1
  have hnot (hb : phaseConfigured u.phase = some false) : False := by
    have := hinv.phaseOk false hb
    simp [hc] at this
  cases hp : u.phase with
  | cfgHold => exact (hnot (by rw [hp]; rfl)).elim
  | cfgWp => exact (hnot (by rw [hp]; rfl)).elim
  | ceLow =>
    obtain h | ⟨e, h⟩ := tick_ceLow_cases (microprogram u.op) hp <;> rw [h] <;>
      exact staticLinesAlone_append hu (by simp) ⟨rfl, rfl, rfl, rfl⟩
  | xfer =>
    obtain ⟨rx, -, -, h⟩ | ⟨rx, -, -, h⟩ | ⟨e, h⟩ := tick_xfer_cases (microprogram u.op) hp <;> rw [h] <;>
      exact staticLinesAlone_append hu (by simp) ⟨rfl, rfl, rfl, rfl⟩
  | xfer2 =>
    obtain ⟨rx, -, h⟩ | ⟨e, h⟩ := tick_xfer2_cases (microprogram u.op) hp <;> rw [h] <;>
      exact staticLinesAlone_append hu (by simp) ⟨rfl, rfl, rfl, rfl⟩
  | ceHigh =>
    obtain ⟨-, h⟩ | ⟨e, -, h⟩ | ⟨e, h⟩ := tick_ceHigh_cases (microprogram u.op) hp <;> rw [h] <;>
      exact staticLinesAlone_append hu (by simp) ⟨rfl, rfl, rfl, rfl⟩
  | _ =>
    obtain ⟨_, _, _, _, _, _, _, -, -, -, h⟩ := tick_quiet u.op (s := u) (by rw [hp]; rfl)
    rw [h]
    exact hu

/-- Settles O53: the phases that command the static lines are phases with `configured` = 0 (R27). -/
theorem configuredLinesAreLeftAlone : Obligations.ConfiguredLinesAreLeftAlone := by
  intro s t hs hc h
  have hself := staticLinesAlone_refl hc
  obtain ⟨-, -, hhold, hwp, new, htrace, hnew⟩ := step_induct (P := StaticLinesAlone s) hs h hself
    (fun i rest => by cases i <;> exact hself) (fun _ _ => hself) (fun _ => tick_staticLinesAlone)
  exact ⟨new, htrace, hhold, hwp, hnew⟩

/-- What is reported since a state `s`: nothing, or one result, of a kind the operation can have, and the block is idle. -/
def ReportsAtMostOne (s u : State) : Prop :=
  u.results = s.results ∨ (u.phase = .idle ∧ ∃ r : Report, u.results = s.results ++ [r] ∧
    ∀ k : OpError, r.result = .err k → mayRaise u.op k = true)

theorem tick_reportsAtMostOne {s u : State} (hinv : Inv u) (hu : ReportsAtMostOne s u) :
    ReportsAtMostOne s (tick (microprogram u.op) u) := by
  obtain hu | ⟨hp, hr⟩ := hu
  · cases he : u.phase.atEvent with
    | true =>
      obtain ⟨_, _, _, _, _, _, _, _, _, _, -, -, h⟩ := tick_event (microprogram u.op) he
      rw [h]
      exact .inl hu
    | false =>
      cases hp : u.phase with
      | idle => rw [tick, hp]; exact .inl hu
      | validate =>
        obtain ⟨g, f, h⟩ | ⟨k, h⟩ | ⟨-, h⟩ := validate_forms u.op u <;> rw [tick, hp] <;> dsimp only <;> rw [h] <;>
          exact .inl hu
      | next =>
        obtain ⟨g, f, n, h, -⟩ | ⟨k, h, -⟩ | ⟨v, h⟩ := next_continues u.op u <;> rw [tick, hp] <;> dsimp only <;> rw [h] <;>
          exact .inl hu
      | respond =>
        obtain ⟨r, hr, hk⟩ := hinv.resultOk.1 hp
        rw [tick, hp]
        refine .inr ⟨State.respond_phase u, _, by rw [State.respond_results r u hr, hu], fun k h => ?_⟩
        rw [State.respond_op]
        exact hk k h
      | _ => rw [hp] at he; cases he
  · rw [tick, hp]
    exact .inr ⟨hp, hr⟩

/-- Settles O56: a result is reported in RESPOND alone, where the invariant gives its kind, and then the block is idle. -/
theorem resultsObeyErrorMatrix : Obligations.ResultsObeyErrorMatrix := by
  intro s t hs h
  obtain ⟨-, ht⟩ := step_induct (P := ReportsAtMostOne s) hs h (.inl rfl) (fun i rest => .inl (by cases i <;> rfl))
    (fun _ _ => .inl rfl) (fun _ => tick_reportsAtMostOne)
  exact ht.imp_right And.right

theorem decodeRequest_error {r : Request} {e : DecodeError} (h : decodeRequest r = .error e) :
    0x9 ≤ r.op.toNat ∨ (r.op = 0x7 ∧ r.rlen = 0) := by
  unfold decodeRequest at h
  split at h
  case h_8 hop =>
    split at h
    · exact .inr ⟨BitVec.eq_of_toNat_eq hop, ‹_›⟩
    · cases h
  case h_10 => left; simp only [imp_false] at *; omega
  all_goals cases h

/-- Settles O57: a request in IDLE that decodes and is within the bounds is accepted, and the frame at the start of a transaction
decodes (`FrameOk`). -/
theorem onlyIllegalRequestsStop : Obligations.OnlyIllegalRequestsStop := by
  intro s hs
  by_cases hidle : s.phase = .idle
  · cases hr : s.program with
    | nil => exact .inl ⟨s, step_noRequest hidle hr⟩
    | cons r rest =>
      cases hd : decodeRequest r with
      | error e => exact .inr ⟨hidle, r, rest, rfl, (decodeRequest_error hd).imp_right .inl⟩
      | ok i =>
        cases hb : s.cfg.admits i with
        | false => exact .inr ⟨hidle, r, rest, rfl, .inr (.inr ⟨i, hd, hb⟩)⟩
        | true =>
          obtain ⟨hi, hwf⟩ := decodeRequest_legal hd
          obtain ⟨t, h, -⟩ := exec_accepted (s := { s with program := rest }) hi hwf hb hidle
          exact .inl ⟨t, (step_request hidle hr hd).trans h⟩
  · by_cases hwindow : s.phase = .cfgHold ∨ s.phase = .ceLow
    · have hframe : (windowInstr s).toBool = true := hs.frameOk.1 (by obtain h | h := hwindow <;> simp [h])
      cases hd : windowInstr s with
      | error e => rw [hd] at hframe; cases hframe
      | ok i =>
        obtain ⟨hi, hwf⟩ := windowInstr_legal hd
        obtain ⟨bytes, l, hexec⟩ := exec_wire i s hi hwf
        exact .inl ⟨_, (step_window hwindow hd).trans (hexec.trans rfl)⟩
    · rw [not_or] at hwindow
      exact .inl ⟨_, step_tick hidle hwindow.1 hwindow.2⟩

end Sys2Proof.Machine
end

section
/-!
PROOFS. The command transaction, event by event: the configuration, the selection, the exchanges and the release, and how a wire
frame's transaction ends on each path (R130 to R138).
-/

namespace Sys2Proof.Machine

/-! ### Events that lead from one event to the next -/

/-- `n` events lead from `s` to `u`, in the transaction of a wire frame as in an operation's. -/
def EventsLead (n : Nat) (s u : State) : Prop :=
  (∀ k, runWindow (n + k) s = runWindow k u) ∧ ∀ m k, advance m (n + k) s = advance m k u

theorem EventsLead.trans {n n' : Nat} {s u v : State} (h : EventsLead n s u) (h' : EventsLead n' u v) :
    EventsLead (n + n') s v := by
  constructor
  · intro k; rw [Nat.add_assoc, h.1, h'.1]
  · intro m k; rw [Nat.add_assoc, h.2, h'.2]

theorem eventsLead_one {s u : State} (hs : s.phase.atEvent = true) (hu : u.phase.atEvent = true)
    (h : ∀ m, tick m s = u) : EventsLead 1 s u := by
  constructor
  · intro k; rw [Nat.add_comm, runWindow_event k hs ⟨id, id⟩, h]
  · intro m k; rw [Nat.add_comm, advance_event m k hs, h, settle_atEvent m hu]

/-! ### From the start of a transaction to its release -/

/-- The state at the exchange when the transaction begun in `s` has selected the chip. -/
def selected (s : State) (rest : List Answer) : State :=
  { afterConfig s rest with
    ce := .low
    phase := .xfer
    trace := s.trace ++ (configEntries s ++ [.lineSet .ce .low none]) }

/-- The state at the data exchange of a split READ, after its command was answered `rx`. -/
def commanded (s : State) (rx : List Byte) (rest : List Answer) : State :=
  { selected s rest with
    frame := zeros s.rlen
    rx := rx
    xres := .ok
    phase := .xfer2
    trace := s.trace ++ (configEntries s ++ [.lineSet .ce .low none, .xfer s.frame (.ok rx)]) }

/-- The state at the release when the transaction begun in `s` has made the given exchanges, with what they left in FRAME, RX and
XRES. -/
def atRelease (s : State) (exchanges : List Entry) (frame rx : List Byte) (x : XRes) (rest : List Answer) : State :=
  { selected s rest with
    frame := frame
    rx := rx
    xres := x
    phase := .ceHigh
    trace := s.trace ++ (configEntries s ++ .lineSet .ce .low none :: exchanges) }

section
variable {s : State} {rest : List Answer} (hp : s.phase = windowStart s.configured)
include hp

theorem lead_selected (ha : s.answers = configAnswers s ++ .ok [] :: rest) :
    EventsLead ((configAnswers s).length + 1) s (selected s rest) := by
  have hconfig : EventsLead (configAnswers s).length s (afterConfig s (.ok [] :: rest)) :=
    ⟨fun k => runWindow_config k hp ha, fun m k => advance_config m k hp ha⟩
  refine hconfig.trans (eventsLead_one rfl rfl fun m => ?_)
  rw [tick_ceLow_ok (rx := []) (rest := rest) m rfl rfl]
  simp [selected, afterConfig]

theorem lead_exchanged {rx : List Byte} (ha : s.answers = configAnswers s ++ .ok [] :: .ok rx :: rest)
    (hl : rx.length = s.frame.length) (hd : dataExchangeFollows s = false) :
    EventsLead ((configAnswers s).length + 2) s (atRelease s [.xfer s.frame (.ok rx)] s.frame rx .ok rest) := by
  refine (lead_selected hp ha).trans (eventsLead_one rfl rfl fun m => ?_)
  rw [tick_xfer_ok (rest := rest) m rfl rfl (by exact hl) (by exact hd)]
  simp [selected, afterConfig, atRelease]

theorem lead_exchangeFailed {c : Failure} (ha : s.answers = configAnswers s ++ .ok [] :: .fail c :: rest) :
    EventsLead ((configAnswers s).length + 2) s
      (atRelease s [.xfer s.frame (.fail c.bus)] s.frame s.rx (.fail c.bus) rest) := by
  refine (lead_selected hp ha).trans (eventsLead_one rfl rfl fun m => ?_)
  rw [tick_xfer_fail (rest := rest) m rfl rfl]
  simp [selected, afterConfig, atRelease]

theorem lead_commanded {rx : List Byte} (ha : s.answers = configAnswers s ++ .ok [] :: .ok rx :: rest)
    (hl : rx.length = s.frame.length) (hd : dataExchangeFollows s = true) :
    EventsLead ((configAnswers s).length + 2) s (commanded s rx rest) := by
  refine (lead_selected hp ha).trans (eventsLead_one rfl rfl fun m => ?_)
  rw [tick_xfer_ok_split (rest := rest) m rfl rfl (by exact hl) (by exact hd)]
  simp [selected, afterConfig, commanded]

theorem lead_dataExchanged {rx1 rx2 : List Byte} (ha : s.answers = configAnswers s ++ .ok [] :: .ok rx1 :: .ok rx2 :: rest)
    (h1 : rx1.length = s.frame.length) (h2 : rx2.length = s.rlen) (hd : dataExchangeFollows s = true) :
    EventsLead ((configAnswers s).length + 3) s
      (atRelease s [.xfer s.frame (.ok rx1), .xfer (zeros s.rlen) (.ok rx2)] (zeros s.rlen) rx2 .ok rest) := by
  refine (lead_commanded hp ha h1 hd).trans (eventsLead_one rfl rfl fun m => ?_)
  rw [tick_xfer2_ok (rest := rest) m rfl rfl (by rw [h2]; exact (zeros_length _).symm)]
  simp [selected, afterConfig, commanded, atRelease]

theorem lead_dataExchangeFailed {rx : List Byte} {c : Failure}
    (ha : s.answers = configAnswers s ++ .ok [] :: .ok rx :: .fail c :: rest) (hl : rx.length = s.frame.length)
    (hd : dataExchangeFollows s = true) :
    EventsLead ((configAnswers s).length + 3) s
      (atRelease s [.xfer s.frame (.ok rx), .xfer (zeros s.rlen) (.fail c.bus)] (zeros s.rlen) rx (.fail c.bus) rest) := by
  refine (lead_commanded hp ha hl hd).trans (eventsLead_one rfl rfl fun m => ?_)
  rw [tick_xfer2_fail (rest := rest) m rfl rfl]
  simp [selected, afterConfig, commanded, atRelease]

end

/-! ### The release -/

section
variable (m : Microprogram) (s : State) (exchanges : List Entry) (frame rx : List Byte) (rest : List Answer)

/-- The state between transactions when the one begun in `s` has succeeded with the given exchanges. -/
def released : State :=
  { atRelease s exchanges frame rx .ok rest with
    ce := .high
    phase := .next
    trace := s.trace ++ (configEntries s ++ (.lineSet .ce .low none :: exchanges ++ [.lineSet .ce .high none])) }

theorem tick_released : tick m (atRelease s exchanges frame rx .ok (.ok [] :: rest)) = released s exchanges frame rx rest := by
  rw [tick_ceHigh_ok (rx := []) (rest := rest) m rfl rfl rfl]
  simp [atRelease, released, selected, afterConfig]

theorem tick_release_transferFailure (e : BusError) :
    WindowFailed s (tick m (atRelease s exchanges frame rx (.fail e) (.ok [] :: rest))) exchanges none (.transferFailure e) rest := by
  rw [tick_ceHigh_transferFailure (rx := []) (e := e) (rest := rest) m rfl rfl rfl]
  exact ⟨rfl, rfl, rfl, rfl, by simp [atRelease], rfl, rfl, rfl⟩

theorem tick_release_fail (x : XRes) (c : Failure) :
    WindowFailed s (tick m (atRelease s exchanges frame rx x (.fail c :: rest))) exchanges (some c.line)
      (.enableLineFailure c.line) rest := by
  rw [tick_ceHigh_fail (c := c) (rest := rest) m rfl rfl]
  exact ⟨rfl, rfl, rfl, rfl, by simp [atRelease], rfl, rfl, rfl⟩

end

/-! ### The transaction of a wire frame -/

/-- A frame's transaction that comes to its release ends with it. -/
theorem issue_release {s u : State} {bytes : List Byte} {n : Nat} (hlead : EventsLead n (s.openWindow bytes) u)
    (hu : u.phase = .ceHigh) (hn : n + 1 ≤ s.answers.length) : issue bytes s = .next (tick ⟨id, id⟩ u) := by
  have hrest : (tick ⟨id, id⟩ u).phase.atEvent = false := by
    obtain ⟨-, h⟩ | ⟨e, -, h⟩ | ⟨e, h⟩ := tick_ceHigh_cases ⟨id, id⟩ hu <;> rw [h] <;> rfl
  obtain ⟨k, hk⟩ := Nat.exists_eq_add_of_le (hn.trans (le_max_right 1 _))
  simp only [issue, State.openWindow_answers, hk]
  rw [Nat.add_assoc, hlead.1, Nat.add_comm, runWindow_event k (by rw [hu]; rfl) ⟨id, id⟩, runWindow_rest k hrest]

/-- Settles O22: a frame that is no READ command makes one exchange. -/
theorem plainFrameCompletes : Obligations.PlainFrameCompletes := by
  intro i s bytes rx rest hi he hl ha
  rw [exec_plainFrame hi he]
  exact issue_window ha hl (dataExchangeFollows_of_not_readCommand (plainFrame_not_readCommand hi he))

theorem windowFailed_congr {s u t : State} {exchanges : List Entry} {release : Option LineError} {k : OpError}
    {rest : List Answer} (hports : SamePorts s u) (h : WindowFailed u t exchanges release k rest) :
    WindowFailed s t exchanges release k rest := by
  obtain ⟨hconf, htrace, -, hwp, hhold, -⟩ := hports
  simpa only [WindowFailed, configEntries, hconf, htrace, hwp, hhold] using h

section
variable {s : State} {bytes : List Byte} {rest : List Answer}

/-- A frame with one exchange, answered ok, whose release fails. -/
theorem issue_releaseFailed {rx : List Byte} {el : Failure} (hl : rx.length = bytes.length)
    (hd : dataExchangeFollows (s.openWindow bytes) = false)
    (ha : s.answers = configAnswers s ++ [.ok [], .ok rx, .fail el] ++ rest) :
    ∃ t : State, issue bytes s = .next t ∧
      WindowFailed s t [.xfer bytes (.ok rx)] (some el.line) (.enableLineFailure el.line) rest := by
  have hlead := lead_exchanged (s := s.openWindow bytes) (rx := rx) (rest := .fail el :: rest) rfl
    (by rw [State.openWindow_answers, ha, List.append_assoc]; rfl) hl hd
  exact ⟨_, issue_release hlead rfl (by rw [ha]; simp [configAnswers_congr (State.openWindow_configured bytes s)]),
    windowFailed_congr (u := s.openWindow bytes) ⟨rfl, rfl, rfl, rfl, rfl, rfl⟩ (tick_release_fail ..)⟩

/-- A frame whose first exchange fails and whose release is answered ok. -/
theorem issue_exchangeFailed {eb : Failure} (ha : s.answers = configAnswers s ++ [.ok [], .fail eb, .ok []] ++ rest) :
    ∃ t : State, issue bytes s = .next t ∧
      WindowFailed s t [.xfer bytes (.fail eb.bus)] none (.transferFailure eb.bus) rest := by
  have hlead := lead_exchangeFailed (s := s.openWindow bytes) (c := eb) (rest := .ok [] :: rest) rfl
    (by rw [State.openWindow_answers, ha, List.append_assoc]; rfl)
  exact ⟨_, issue_release hlead rfl (by rw [ha]; simp [configAnswers_congr (State.openWindow_configured bytes s)]),
    windowFailed_congr (u := s.openWindow bytes) ⟨rfl, rfl, rfl, rfl, rfl, rfl⟩ (tick_release_transferFailure ..)⟩

/-- A frame whose first exchange fails and then its release. -/
theorem issue_exchangeAndReleaseFailed {eb el : Failure}
    (ha : s.answers = configAnswers s ++ [.ok [], .fail eb, .fail el] ++ rest) :
    ∃ t : State, issue bytes s = .next t ∧
      WindowFailed s t [.xfer bytes (.fail eb.bus)] (some el.line) (.enableLineFailure el.line) rest := by
  have hlead := lead_exchangeFailed (s := s.openWindow bytes) (c := eb) (rest := .fail el :: rest) rfl
    (by rw [State.openWindow_answers, ha, List.append_assoc]; rfl)
  exact ⟨_, issue_release hlead rfl (by rw [ha]; simp [configAnswers_congr (State.openWindow_configured bytes s)]),
    windowFailed_congr (u := s.openWindow bytes) ⟨rfl, rfl, rfl, rfl, rfl, rfl⟩ (tick_release_fail ..)⟩

end

/-- Settles O24: the first case is the success path, and each other comes to a release that raises. -/
theorem transactionFailurePrecedence : Obligations.TransactionFailurePrecedence := by
  intro i s bytes rest hi he
  have hd : dataExchangeFollows (s.openWindow bytes) = false :=
    dataExchangeFollows_of_not_readCommand (plainFrame_not_readCommand hi he)
  refine ⟨fun rx hl ha => plainFrameCompletes i s bytes rx rest hi he hl ha, ?_⟩
  rw [exec_plainFrame hi he]
  exact ⟨fun rx el hl ha => issue_releaseFailed hl hd ha, fun eb ha => issue_exchangeFailed ha,
    fun eb el ha => issue_exchangeAndReleaseFailed ha⟩

/-! ### The READ frame -/

section
variable {l : Nat} {s : State} (a : WireAddr) (hl : 1 ≤ l)
include hl

theorem exec_readMem_split (hf : s.cfg.readFraming = .split) :
    exec (.readMem a l) s = issue (readCommand a) { s with rlen := l } := by
  have h : exec (.readMem a l) s = issue (readFrame s.cfg a l) { s with rlen := l } := if_neg (Nat.one_le_iff_ne_zero.1 hl)
  rw [h, readFrame, hf]

theorem exec_readMem_joined (hf : s.cfg.readFraming = .joined) :
    exec (.readMem a l) s = issue (readCommand a ++ zeros l) { s with rlen := l } := by
  have h : exec (.readMem a l) s = issue (readFrame s.cfg a l) { s with rlen := l } := if_neg (Nat.one_le_iff_ne_zero.1 hl)
  rw [h, readFrame, hf]

end

theorem readCommand_dataExchange {s : State} (a : WireAddr) (hf : s.cfg.readFraming = .split) :
    dataExchangeFollows (s.openWindow (readCommand a)) = true :=
  (dataExchangeFollows_split (s := s.openWindow (readCommand a)) hf).trans rfl

/-- Settles O23: the split framing makes a second exchange after the command's, the joined framing one in all. -/
theorem readFrameCompletes : Obligations.ReadFrameCompletes := by
  refine ⟨fun a l s rx1 rx2 rest hl hf h1 h2 ha => ?_, fun a l s rx rest hl hf hrx ha => ?_⟩
  · have hlead := lead_dataExchanged (s := State.openWindow (readCommand a) { s with rlen := l }) (rx1 := rx1) (rx2 := rx2)
      (rest := .ok [] :: rest) rfl (by rw [State.openWindow_answers, ha, List.append_assoc]; rfl) h1 h2
      (readCommand_dataExchange (s := { s with rlen := l }) a hf)
    rw [exec_readMem_split a hl hf, issue_release hlead rfl (by rw [ha]; simp [configAnswers]), tick_released]
    rfl
  · rw [exec_readMem_joined a hl hf]
    exact issue_window (s := { s with rlen := l }) (bytes := readCommand a ++ zeros l) ha (by rw [hrx]; simp [readCommand]; omega)
      (dataExchangeFollows_joined (s := { s with rlen := l, frame := readCommand a ++ zeros l }) hf)

/-- A split READ whose data exchange fails comes to its release. -/
theorem lead_readDataFailed {a : WireAddr} {l : Nat} {s : State} {rx : List Byte} {e : Failure} {rest : List Answer}
    (hf : s.cfg.readFraming = .split) (hrx : rx.length = 4)
    (ha : s.answers = configAnswers s ++ .ok [] :: .ok rx :: .fail e :: rest) :
    EventsLead ((configAnswers s).length + 3) (State.openWindow (readCommand a) { s with rlen := l })
      (atRelease (State.openWindow (readCommand a) { s with rlen := l })
        [.xfer (readCommand a) (.ok rx), .xfer (zeros l) (.fail e.bus)] (zeros l) rx (.fail e.bus) rest) :=
  lead_dataExchangeFailed (s := State.openWindow (readCommand a) { s with rlen := l }) rfl ha hrx
    (readCommand_dataExchange (s := { s with rlen := l }) a hf)

theorem samePorts_openWindow (bytes : List Byte) (l : Nat) (s : State) :
    SamePorts s (State.openWindow bytes { s with rlen := l }) := ⟨rfl, rfl, rfl, rfl, rfl, rfl⟩

/-- Settles O27: a failed first exchange is any frame's; the other three come to the release after the second exchange. -/
theorem splitReadFailures : Obligations.SplitReadFailures := by
  intro a l s rest hl hf
  rw [exec_readMem_split a hl hf]
  refine ⟨fun e ha => issue_exchangeFailed (s := { s with rlen := l }) ha, fun rx e hrx ha => ?_,
    fun e el ha => issue_exchangeAndReleaseFailed (s := { s with rlen := l }) ha, fun rx e el hrx ha => ?_,
    fun rx1 rx2 el h1 h2 ha => ?_⟩
  · have hlead := lead_readDataFailed (a := a) (l := l) hf hrx (rest := .ok [] :: rest) (by rw [ha, List.append_assoc]; rfl)
    exact ⟨_, issue_release hlead rfl (by rw [ha]; simp),
      windowFailed_congr (samePorts_openWindow (readCommand a) l s) (tick_release_transferFailure ..)⟩
  · have hlead := lead_readDataFailed (a := a) (l := l) hf hrx (rest := .fail el :: rest) (by rw [ha, List.append_assoc]; rfl)
    exact ⟨_, issue_release hlead rfl (by rw [ha]; simp),
      windowFailed_congr (samePorts_openWindow (readCommand a) l s) (tick_release_fail ..)⟩
  · have hlead := lead_dataExchanged (s := State.openWindow (readCommand a) { s with rlen := l }) (rx1 := rx1) (rx2 := rx2)
      (rest := .fail el :: rest) rfl (by rw [State.openWindow_answers, ha, List.append_assoc]; rfl) h1 h2
      (readCommand_dataExchange (s := { s with rlen := l }) a hf)
    exact ⟨_, issue_release hlead rfl (by rw [ha]; simp [configAnswers]),
      windowFailed_congr (samePorts_openWindow (readCommand a) l s) (tick_release_fail ..)⟩

/-- Settles O28: the joined READ makes one exchange, as every other frame. -/
theorem joinedReadFailures : Obligations.JoinedReadFailures := by
  intro a l s rest hl hf
  rw [exec_readMem_joined a hl hf]
  exact ⟨fun e ha => issue_exchangeFailed (s := { s with rlen := l }) ha,
    fun e el ha => issue_exchangeAndReleaseFailed (s := { s with rlen := l }) ha,
    fun rx el hrx ha => issue_releaseFailed (s := { s with rlen := l }) (by rw [hrx]; simp [readCommand]; omega)
      (dataExchangeFollows_joined (s := State.openWindow (readCommand a ++ zeros l) { s with rlen := l }) hf) ha⟩

/-! ### The configuration fails -/

/-- A frame's transaction ends at the hold line that fails. -/
theorem issue_holdFailed {s : State} {bytes : List Byte} {c : Failure} {rest : List Answer} (hc : s.configured = false)
    (ha : s.answers = .fail c :: rest) : issue bytes s = .next (holdFailed (s.openWindow bytes) c rest) := by
  have hp : (s.openWindow bytes).phase = .cfgHold := by rw [State.openWindow_phase, hc]; rfl
  have hfuel : max 1 (s.openWindow bytes).answers.length = rest.length + 1 := by
    rw [State.openWindow_answers, ha]; simp
  simp only [issue, hfuel]
  rw [runWindow_event _ (by rw [hp]; rfl) ⟨id, id⟩, tick_cfgHold_fail _ hp ha, runWindow_rest _ rfl]
  rfl

/-- A frame's transaction ends at the write-protect line that fails. -/
theorem issue_writeProtectFailed {s : State} {bytes rx : List Byte} {c : Failure} {rest : List Answer}
    (hc : s.configured = false) (ha : s.answers = .ok rx :: .fail c :: rest) :
    issue bytes s = .next (writeProtectFailed (s.openWindow bytes) c rest) := by
  have hp : (s.openWindow bytes).phase = .cfgHold := by rw [State.openWindow_phase, hc]; rfl
  have hfuel : max 1 (s.openWindow bytes).answers.length = rest.length + 1 + 1 := by
    rw [State.openWindow_answers, ha]; simp
  simp only [issue, hfuel]
  rw [runWindow_event _ (by rw [hp]; rfl) ⟨id, id⟩, tick_cfgHold_ok _ hp ha, runWindow_event _ rfl ⟨id, id⟩,
    tick_cfgWp_fail (c := c) (rest := rest) _ rfl rfl, runWindow_rest _ rfl]
  simp [writeProtectFailed]

/-- Settles O26: every well-formed wire frame is the transaction of some bytes, and a line that fails in the configuration ends any
transaction. -/
theorem configurationFailures : Obligations.ConfigurationFailures := by
  intro i s e rest hi hwf hc
  obtain ⟨bytes, l, hexec⟩ := exec_wire i s hi hwf
  rw [hexec]
  refine ⟨fun ha => ?_, fun rx ha => ?_⟩
  · exact ⟨_, issue_holdFailed (s := { s with rlen := l }) hc ha, rfl, rfl, hc, rfl, rfl, rfl, rfl, rfl, rfl, rfl⟩
  · exact ⟨_, issue_writeProtectFailed (s := { s with rlen := l }) hc ha, rfl, rfl, hc, rfl, rfl, rfl, rfl, rfl, rfl, rfl⟩

end Sys2Proof.Machine
end

section
/-!
PROOFS. How an operation runs through its fixed answers: transaction after transaction, and the account of what they leave (R8, R132,
R210, R236).
-/

namespace Sys2Proof.Machine

/-! ### Running an operation through its fixed answers -/

/-- What the operation that stands in `s` comes to through the fixed answers. -/
def runFrom (m : Microprogram) (s : State) : State := advance m s.answers.length (settle m s)

theorem exec_runFrom {i : Instr} {s : State} (hi : i.isHostOp = true) (hwf : i.wf = true) (hb : s.cfg.admits i = true)
    (hp : s.phase = .idle) :
    exec i s = .next (runFrom (microprogram (latch i s).op) (latched i s)) := by
  rw [exec_admitted hi hwf hb, accept_idle _ _ hp, settle_answers]; rfl

section
variable {m : Microprogram} {s u : State} {g : Stage} {f rx : List Byte} {rest : List Answer}

theorem runFrom_rest (h : s.phase.atEvent = true) (ha : s.answers = []) : runFrom m s = s := by
  rw [runFrom, ha, settle_atEvent m h]; rfl

theorem runFrom_validate (hp : s.phase = .validate) (h : m.validate s = s.beginTxn g f) :
    runFrom m s = runFrom m (s.beginTxn g f) := by
  have he : (s.beginTxn g f).phase.atEvent = true := windowStart_atEvent _
  rw [runFrom, settle_validate_event m hp (by rw [h]; exact he), h, runFrom, settle_atEvent m he, State.beginTxn_answers]

theorem runFrom_next (hp : s.phase = .next) (h : m.next s = u.beginTxn g f) (ha : u.answers = s.answers) :
    runFrom m s = runFrom m (u.beginTxn g f) := by
  have he : (u.beginTxn g f).phase.atEvent = true := windowStart_atEvent _
  rw [runFrom, settle_next_event m hp (by rw [h]; exact he), h, runFrom, settle_atEvent m he, State.beginTxn_answers, ha]

theorem runFrom_return {v : OpValue} (hp : s.phase = .next) (h : m.next s = s.returnOk v) :
    runFrom m s = (s.returnOk v).respond := by
  rw [runFrom, settle_next_respond m hp (by rw [h]; rfl), h, advance_rest m _ (by rw [State.respond_phase]; rfl)]

theorem runFrom_raise {k : OpError} (hp : s.phase = .next) (h : m.next s = s.raise k) :
    runFrom m s = (s.raise k).respond := by
  rw [runFrom, settle_next_respond m hp (by rw [h]; rfl), h, advance_rest m _ (by rw [State.respond_phase]; rfl)]

theorem runFrom_txn (ha : s.answers = configAnswers s ++ txnAnswers rx ++ rest) (hl : rx.length = f.length)
    (h4 : f.length ≠ 4) : runFrom m (s.beginTxn g f) = runFrom m (windowDone (s.beginTxn g f) rx rest) := by
  rw [runFrom, settle_atEvent m (windowStart_atEvent _), State.beginTxn_answers, advance_txn m ha hl h4]; rfl

theorem runFrom_busyPolls {done : State → State} (hm : ∀ u : State, u.stage = .poll → m.next u = pollAgain done u)
    {busy : List (List Byte)} (hc : s.configured = true) (hb : ∀ rx ∈ busy, statusResponse true rx)
    (ha : s.answers = pollAnswers busy ++ rest) :
    ∃ (ce : Level) (rx : List Byte) (xr : XRes), runFrom m (s.beginTxn .poll rdsrBytes) =
      runFrom m (State.beginTxn .poll rdsrBytes { s with
        ce := ce, rx := rx, xres := xr, trace := s.trace ++ pollEntries busy, answers := rest }) := by
  obtain ⟨ce, rx, xr, h⟩ := advance_busyPolls hm busy (s.beginTxn .poll rdsrBytes) rest
    (by rw [State.beginTxn_phase, hc]; rfl) rfl rfl hc hb ha
  refine ⟨ce, rx, xr, ?_⟩
  rw [runFrom, settle_atEvent m (windowStart_atEvent _), h, runFrom, settle_atEvent m (windowStart_atEvent _)]; rfl

theorem runFrom_wait {done : State → State} (hm : ∀ u : State, u.stage = .poll → m.next u = pollAgain done u)
    {busy : List (List Byte)} {last : List Byte} (hc : s.configured = true) (hw : waitResponses busy last)
    (ha : s.answers = waitAnswers busy last ++ rest) :
    runFrom m (s.beginTxn .poll rdsrBytes) = runFrom m (waitDone s busy last rest) ∧
      m.next (waitDone s busy last rest) = done (waitDone s busy last rest) := by
  obtain ⟨h, hn⟩ := advance_wait hm (s := s.beginTxn .poll rdsrBytes) (rest := rest)
    (by rw [State.beginTxn_phase, hc]; rfl) rfl rfl hc hw ha
  exact ⟨by rw [runFrom, settle_atEvent m (windowStart_atEvent _), h]; rfl, hn⟩

end

/-! ### A transaction that fails -/

/-- An operation ends with the failure of its transaction at the release. -/
theorem ended_of_windowFailed {s t : State} {exchanges : List Entry} {release : Option LineError} {k : OpError}
    {rest : List Answer} (h : WindowFailed s t exchanges release k rest) (hk : EventKeeps s t) :
    Ended s t.respond (configEntries s ++ (.lineSet .ce .low none :: exchanges ++ [.lineSet .ce .high release])) (.err k)
      (if release = none then .high else .x) rest := by
  obtain ⟨-, hresult, hce, hanswers, htrace, hconf, hhold, hwp⟩ := h
  have hresults : t.respond.results = s.results ++ [⟨.err k, true, s.blocking⟩] := by
    rw [State.respond_results _ t hresult, hk.results, hconf, hk.blocking]
  exact ⟨State.respond_phase t, (State.respond_trace t).trans htrace, hresults, (State.respond_result t).trans hresult,
    (State.respond_answers t).trans hanswers, (State.respond_configured t).trans hconf,
    (State.respond_blocking t).trans hk.blocking, (State.respond_ce t).trans hce, (State.respond_hold t).trans hhold,
    (State.respond_wp t).trans hwp, (State.respond_cfg t).trans hk.cfg, (State.respond_program t).trans hk.program⟩

theorem eventKeeps_atRelease (s : State) (exchanges : List Entry) (frame rx : List Byte) (x : XRes) (rest : List Answer) :
    EventKeeps s (atRelease s exchanges frame rx x rest) :=
  ⟨rfl, rfl, rfl, rfl, rfl, rfl, rfl, rfl, rfl, rfl, rfl, rfl, rfl⟩

section
variable (m : Microprogram) {s : State} {g : Stage} {tx : List Byte} {rest : List Answer}

/-- An operation whose transaction comes to a release that raises, ends there. -/
theorem runFrom_release {u : State} {n : Nat} (hlead : EventsLead n (s.beginTxn g tx) u) (hu : u.phase = .ceHigh)
    (hn : n + 1 ≤ s.answers.length) (hr : (tick m u).phase = .respond) :
    runFrom m (s.beginTxn g tx) = (tick m u).respond := by
  obtain ⟨k, hk⟩ := Nat.exists_eq_add_of_le hn
  rw [runFrom, settle_atEvent m (windowStart_atEvent _), State.beginTxn_answers, hk, Nat.add_assoc, hlead.2, Nat.add_comm,
    advance_raised m k (by rw [hu]; rfl) rfl hr]

theorem ended_atRelease {u : State} {n : Nat} {exchanges : List Entry} {release : Option LineError} {k : OpError}
    (hlead : EventsLead n (s.beginTxn g tx) u) (hu : u.phase = .ceHigh) (hn : n + 1 ≤ s.answers.length)
    (hkeeps : EventKeeps (s.beginTxn g tx) u) (hfail : WindowFailed (s.beginTxn g tx) (tick m u) exchanges release k rest) :
    Ended s (runFrom m (s.beginTxn g tx)) (configEntries s ++ (.lineSet .ce .low none :: exchanges ++ [.lineSet .ce .high release]))
      (.err k) (if release = none then .high else .x) rest := by
  rw [runFrom_release m hlead hu hn hfail.1]
  exact ended_of_windowFailed (s := s.beginTxn g tx) hfail (tick_eventKeeps m (by rw [hu]; rfl) hkeeps)

/-- A transaction with one exchange that fails ends the operation with its error, in each of the four ways it can fail. -/
theorem ended_txnFailure (f : TxnFailure) (hf : f.fits tx = true) (h4 : tx.length ≠ 4)
    (ha : s.answers = configAnswers s ++ f.answers ++ rest) :
    Ended s (runFrom m (s.beginTxn g tx)) (configEntries s ++ f.entries tx) (.err f.error) f.ce rest := by
  have hd : dataExchangeFollows (s.beginTxn g tx) = false := no_dataExchange h4
  have ha' : (s.beginTxn g tx).answers = configAnswers (s.beginTxn g tx) ++ (f.answers ++ rest) := by
    rw [← List.append_assoc]; exact ha
  have hlength : s.answers.length = (configAnswers (s.beginTxn g tx)).length + (f.answers.length + rest.length) := by
    rw [← State.beginTxn_answers g tx s, ha']; simp
  cases f with
  | assertion el =>
    have hlength' : s.answers.length = (configAnswers (s.beginTxn g tx)).length + (rest.length + 1) :=
      hlength.trans (congrArg _ (Nat.add_comm 1 _))
    have h : runFrom m (s.beginTxn g tx) = (assertionFailed (s.beginTxn g tx) el rest).respond := by
      rw [runFrom, settle_atEvent m (windowStart_atEvent _), State.beginTxn_answers, hlength']
      exact advance_assertionFailed m rest.length rfl ha
    rw [h]
    exact ended_assertionFailed s g tx el rest
  | exchange eb =>
    have hlead := lead_exchangeFailed (s := s.beginTxn g tx) (c := eb) (rest := .ok [] :: rest) rfl ha'
    exact ended_atRelease m hlead rfl (by rw [hlength]; simp [TxnFailure.answers]; omega) (eventKeeps_atRelease ..)
      (tick_release_transferFailure ..)
  | exchangeAndRelease eb el =>
    have hlead := lead_exchangeFailed (s := s.beginTxn g tx) (c := eb) (rest := .fail el :: rest) rfl ha'
    exact ended_atRelease m hlead rfl (by rw [hlength]; simp [TxnFailure.answers]; omega) (eventKeeps_atRelease ..)
      (tick_release_fail ..)
  | release rx el =>
    have hlead := lead_exchanged (s := s.beginTxn g tx) (rx := rx) (rest := .fail el :: rest) rfl ha' (of_decide_eq_true hf) hd
    exact ended_atRelease m hlead rfl (by rw [hlength]; simp [TxnFailure.answers]; omega) (eventKeeps_atRelease ..)
      (tick_release_fail ..)

end

/-! ### The account of an operation's progress -/

/-- `u` stands within the operation accepted in `s`, after the given events: at least one transaction has succeeded, so the lines
are configured, and no result is reported. -/
structure Progress (s u : State) (entries : List Entry) : Prop where
  trace : u.trace = s.trace ++ entries
  results : u.results = s.results
  configured : u.configured = true
  blocking : u.blocking = s.blocking
  hold : u.hold = if s.configured then s.hold else .high
  wp : u.wp = if s.configured then s.wp else .low
  cfg : u.cfg = s.cfg
  program : u.program = s.program

/-- The first transaction, from the latched request. -/
theorem progress_first (i : Instr) (s : State) (g : Stage) (f rx : List Byte) (rest : List Answer) :
    Progress s (windowDone ((latched i s).beginTxn g f) rx rest)
      (configEntries s ++ txnEntries f rx) := by
  cases i <;> exact ⟨rfl, rfl, rfl, rfl, rfl, rfl, rfl, rfl⟩

section
variable {s u : State} {entries : List Entry} (h : Progress s u entries)
include h

theorem Progress.configAnswers : configAnswers u = [] := by rw [Machine.configAnswers, h.configured]; rfl

theorem Progress.configEntries : configEntries u = [] := by rw [Machine.configEntries, h.configured]; rfl

theorem Progress.withIdx (n : Nat) : Progress s { u with idx := n } entries :=
  ⟨h.trace, h.results, h.configured, h.blocking, h.hold, h.wp, h.cfg, h.program⟩

/-- A later transaction. -/
theorem Progress.txn (g : Stage) (f rx : List Byte) (rest : List Answer) :
    Progress s (windowDone (u.beginTxn g f) rx rest) (entries ++ txnEntries f rx) := by
  refine ⟨?_, h.results, rfl, h.blocking, ?_, ?_, h.cfg, h.program⟩
  · rw [windowDone_trace, configEntries_beginTxn, h.configEntries]
    simp [h.trace]
  · simp [windowDone, h.configured, h.hold]
  · simp [windowDone, h.configured, h.wp]

/-- A wait that ends. -/
theorem Progress.wait (busy : List (List Byte)) (last : List Byte) (rest : List Answer) :
    Progress s (waitDone u busy last rest) (entries ++ waitEntries busy last) :=
  ⟨by simp [waitDone, h.trace], h.results, h.configured, h.blocking, h.hold, h.wp, h.cfg, h.program⟩

/-- Polls that show busy. -/
theorem Progress.busyPolls (busy : List (List Byte)) (ce : Level) (rx : List Byte) (xr : XRes) (rest : List Answer) :
    Progress s { u with ce := ce, rx := rx, xres := xr, trace := u.trace ++ pollEntries busy, answers := rest }
      (entries ++ pollEntries busy) :=
  ⟨by simp [h.trace], h.results, h.configured, h.blocking, h.hold, h.wp, h.cfg, h.program⟩

/-- The operation returns. -/
theorem Progress.returned (v : OpValue) (hce : u.ce = .high) : Finished s (u.returnOk v).respond entries (.ok v) u.answers := by
  refine ⟨rfl, h.trace, ?_, rfl, rfl, h.configured, h.blocking, hce, h.hold, h.wp, h.cfg, h.program⟩
  rw [State.respond_results _ _ (State.returnOk_result v u)]
  simp [h.results, h.configured, h.blocking]

/-- The operation raises an error between two transactions. -/
theorem Progress.raised (k : OpError) (hce : u.ce = .high) : Finished s (u.raise k).respond entries (.err k) u.answers := by
  refine ⟨rfl, h.trace, ?_, rfl, rfl, h.configured, h.blocking, hce, h.hold, h.wp, h.cfg, h.program⟩
  rw [State.respond_results _ _ (State.raise_result k u)]
  simp [h.results, h.configured, h.blocking]

theorem Progress.ended {t : State} {entries' : List Entry} {r : OpResult} {ce : Level} {rest : List Answer}
    (ht : Ended u t entries' r ce rest) : Ended s t (entries ++ entries') r ce rest := by
  obtain ⟨hp, htrace, hresults, hresult, hanswers, hconf, hblocking, hce, hhold, hwp, hcfg, hprogram⟩ := ht
  rw [if_pos h.configured] at hhold hwp
  refine ⟨hp, ?_, ?_, hresult, hanswers, hconf, hblocking.trans h.blocking, hce, hhold.trans h.hold, hwp.trans h.wp,
    hcfg.trans h.cfg, hprogram.trans h.program⟩
  · rw [htrace, h.trace, List.append_assoc]
  · rw [hresults, h.results, h.blocking]

/-- A later transaction fails. -/
theorem Progress.txnFailure (m : Microprogram) {g : Stage} {tx : List Byte} {rest : List Answer} (f : TxnFailure)
    (hf : f.fits tx = true) (h4 : tx.length ≠ 4) (ha : u.answers = f.answers ++ rest) :
    Ended s (runFrom m (u.beginTxn g tx)) (entries ++ f.entries tx) (.err f.error) f.ce rest := by
  have hu := ended_txnFailure m (g := g) f hf h4 (s := u) (rest := rest) (by rw [h.configAnswers, ha]; rfl)
  rw [h.configEntries] at hu
  exact h.ended hu

theorem Progress.runFrom_txn {m : Microprogram} {g : Stage} {f rx : List Byte} {rest : List Answer}
    (ha : u.answers = txnAnswers rx ++ rest) (hl : rx.length = f.length) (h4 : f.length ≠ 4) :
    runFrom m (u.beginTxn g f) = runFrom m (windowDone (u.beginTxn g f) rx rest) :=
  Machine.runFrom_txn (by rw [h.configAnswers, ha]; rfl) hl h4

/-- A poll fails, after any number that show busy. -/
theorem Progress.pollFailure {m : Microprogram} {done : State → State}
    (hm : ∀ u : State, u.stage = .poll → m.next u = pollAgain done u) {busy : List (List Byte)} {rest : List Answer}
    (f : TxnFailure) (hb : ∀ rx ∈ busy, statusResponse true rx) (hf : f.fits rdsrBytes = true)
    (ha : u.answers = pollAnswers busy ++ (f.answers ++ rest)) :
    Ended s (runFrom m (u.beginTxn .poll rdsrBytes)) (entries ++ (pollEntries busy ++ f.entries rdsrBytes)) (.err f.error) f.ce
      rest := by
  obtain ⟨ce, rx, xr, hpolls⟩ := runFrom_busyPolls hm h.configured hb ha
  rw [hpolls, ← List.append_assoc]
  exact (h.busyPolls busy ce rx xr _).txnFailure m f hf (by decide) rfl

/-- The polls show busy and no more are answered: the block stands before the next one. -/
theorem Progress.standsAtPoll {m : Microprogram} {done : State → State}
    (hm : ∀ u : State, u.stage = .poll → m.next u = pollAgain done u) {busy : List (List Byte)}
    (hb : ∀ rx ∈ busy, statusResponse true rx) (ha : u.answers = pollAnswers busy) :
    ∃ t : State, runFrom m (u.beginTxn .poll rdsrBytes) = t ∧ t.phase = .ceLow ∧ t.frame = rdsrBytes ∧ t.results = s.results ∧
      t.trace = s.trace ++ (entries ++ pollEntries busy) := by
  obtain ⟨ce, rx, xr, hpolls⟩ := runFrom_busyPolls hm h.configured hb (rest := []) (by rw [ha, List.append_nil])
  refine ⟨_, hpolls.trans (runFrom_rest (windowStart_atEvent _) rfl), ?_, rfl, h.results, (h.busyPolls busy ce rx xr []).trace⟩
  rw [State.beginTxn_phase, h.configured]; rfl

end

/-! ### The status operations and read -/

/-- An operation made of one transaction, with the state it returns from. -/
theorem exec_single {i : Instr} {s : State} {g : Stage} {f rx : List Byte} {v : OpValue} {rest : List Answer}
    (hi : i.isHostOp = true) (hwf : i.wf = true) (hb : s.cfg.admits i = true) (hp : s.phase = .idle)
    (hv : (microprogram (latch i s).op).validate (latched i s) =
      (latched i s).beginTxn g f)
    (hn : ∀ u : State, u.stage = g → u.rx = rx → u.cfg = s.cfg → (microprogram (latch i s).op).next u = u.returnOk v)
    (hl : rx.length = f.length) (h4 : f.length ≠ 4) (ha : s.answers = configAnswers s ++ txnAnswers rx ++ rest) :
    ∃ t : State, exec i s = .next t ∧ Finished s t (configEntries s ++ txnEntries f rx) (.ok v) rest := by
  have hrun := runFrom_txn (m := microprogram (latch i s).op) (g := g) (s := latched i s) (rest := rest)
    (by rw [configAnswers_congr (latched_configured i s), latched_answers, ha]) hl h4
  exact ⟨_, (exec_runFrom hi hwf hb hp).trans (congrArg _ ((runFrom_validate rfl hv).trans (hrun.trans
    (runFrom_return rfl (hn _ rfl rfl (latched_cfg i s)))))), (progress_first i s g f rx rest).returned v rfl⟩

/-- Settles O30: one transaction, whose response is decoded. -/
theorem readStatusCompletes : Obligations.ReadStatusCompletes := by
  intro s b0 b1 rest hp ha
  exact exec_single (i := .readStatus) rfl rfl rfl hp rfl
    (fun u _ hrx _ => by simp only [latch, microprogram, readStatusProgram, statusByte, hrx]; rfl) rfl (by decide) ha

/-- Settles O31: one transaction each. -/
theorem latchOperationsComplete : Obligations.LatchOperationsComplete := by
  intro s rx rest hp hl ha
  exact ⟨exec_single (i := .writeEnable) rfl rfl rfl hp rfl (fun _ _ _ _ => rfl) hl (by decide) ha,
    exec_single (i := .writeDisable) rfl rfl rfl hp rfl (fun _ _ _ _ => rfl) hl (by decide) ha⟩

theorem writeStatus_next_enable {s : State} (h : s.stage = .enable) :
    writeStatusProgram.next s = s.beginTxn .middle (preludeBytes s.cfg.wsPrelude) := by
  simp only [writeStatusProgram, h]

theorem writeStatus_next_middle {s : State} (h : s.stage = .middle) :
    writeStatusProgram.next s = s.beginTxn .main (wrsrBytes (encodeStatus s.statIn)) := by
  simp only [writeStatusProgram, h]

theorem writeStatus_next_main {s : State} (h : s.stage = .main) : writeStatusProgram.next s = s.returnOk .unit := by
  simp only [writeStatusProgram, h]

theorem Finished.congr {s t : State} {entries entries' : List Entry} {r : OpResult} {rest : List Answer}
    (h : Finished s t entries r rest) (he : entries = entries') : Finished s t entries' r rest := he ▸ h

theorem Ended.congr {s t : State} {entries entries' : List Entry} {r : OpResult} {ce : Level} {rest : List Answer}
    (h : Ended s t entries r ce rest) (he : entries = entries') : Ended s t entries' r ce rest := he ▸ h

/-- Settles O32: three transactions, one after the other. -/
theorem writeStatusCompletes : Obligations.WriteStatusCompletes := by
  intro st s rx1 rx2 rx3 rest hp h1 h2 h3 ha
  have p1 := progress_first (.writeStatus st) s .enable wrenBytes rx1 (txnAnswers rx2 ++ txnAnswers rx3 ++ rest)
  have p2 := p1.txn .middle (preludeBytes s.cfg.wsPrelude) rx2 (txnAnswers rx3 ++ rest)
  have p3 := p2.txn .main (wrsrBytes (encodeStatus st)) rx3 rest
  refine ⟨_, (exec_runFrom (i := .writeStatus st) rfl rfl rfl hp).trans (congrArg _ ?_),
    (p3.returned .unit rfl).congr (by simp [preludeBytes, wrsrBytes, wrenBytes])⟩
  calc runFrom writeStatusProgram (latched (.writeStatus st) s)
      = runFrom writeStatusProgram _ := runFrom_validate rfl rfl
    _ = runFrom writeStatusProgram _ := runFrom_txn (by rw [configAnswers_congr (latched_configured _ s), latched_answers]; simp [ha]) h1
        (by decide)
    _ = runFrom writeStatusProgram _ := runFrom_next rfl (writeStatus_next_enable rfl) rfl
    _ = runFrom writeStatusProgram _ := p1.runFrom_txn (List.append_assoc ..) h2 (by simp [preludeBytes])
    _ = runFrom writeStatusProgram _ := runFrom_next rfl (writeStatus_next_middle rfl) rfl
    _ = runFrom writeStatusProgram _ := p2.runFrom_txn rfl h3 (by simp [wrsrBytes])
    _ = _ := runFrom_return rfl (writeStatus_next_main rfl)

end Sys2Proof.Machine
end

section
/-!
PROOFS. The operations with more than one transaction, and read: how they complete (R172, R190, R193), how they end at a busy chip or
a failing transaction (R174, R176, R210), and the wait that has no bound (R212).
-/

namespace Sys2Proof.Machine

/-! ### read -/

/-- A transaction that comes to a release answered ok leads to the state between transactions. -/
theorem runFrom_released {m : Microprogram} {s : State} {g : Stage} {tx frame rx : List Byte} {n : Nat} {exchanges : List Entry}
    {rest : List Answer}
    (hlead : EventsLead n (s.beginTxn g tx) (atRelease (s.beginTxn g tx) exchanges frame rx .ok (.ok [] :: rest)))
    (hn : s.answers.length = n + (rest.length + 1)) :
    runFrom m (s.beginTxn g tx) = runFrom m (released (s.beginTxn g tx) exchanges frame rx rest) := by
  rw [runFrom, settle_atEvent m (windowStart_atEvent _), State.beginTxn_answers, hn, hlead.2, advance_event m _ rfl, tick_released]
  rfl

theorem progress_firstReleased (i : Instr) (s : State) (g : Stage) (tx frame rx : List Byte) (exchanges : List Entry)
    (rest : List Answer) :
    Progress s (released ((latched i s).beginTxn g tx) exchanges frame rx rest)
      (configEntries s ++ (.lineSet .ce .low none :: exchanges ++ [.lineSet .ce .high none])) := by
  cases i <;> exact ⟨rfl, rfl, rfl, rfl, rfl, rfl, rfl, rfl⟩

theorem read_next_split {s : State} (hf : s.cfg.readFraming = .split) : readProgram.next s = s.returnOk (.bytes s.rx) := by
  simp only [readProgram, readData, hf]

theorem read_next_joined {s : State} (hf : s.cfg.readFraming = .joined) :
    readProgram.next s = s.returnOk (.bytes (s.rx.drop 4)) := by
  simp only [readProgram, readData, hf]

/-- Settles O36: one window, of two exchanges or one, and the data bytes are returned. -/
theorem readCompletes : Obligations.ReadCompletes := by
  intro a l s rx1 rx2 rest hp haddr hb hl h1 h2
  have hwf : (Instr.read a l).wf = true := decide_eq_true hl
  refine ⟨fun hf ha => ?_, fun hf ha => ?_⟩
  · have hframe : readProgram.validate (latched (.read a l) s) =
        (latched (.read a l) s).beginTxn .main (readCommand (wireAddress s.cfg a)) :=
      (read_validate haddr).trans (congrArg (State.beginTxn .main · _)
        (by simp only [readFrame, latched, latch, hf]))
    have hlead := lead_dataExchanged (s := (latched (.read a l) s).beginTxn .main (readCommand (wireAddress s.cfg a)))
      (rx1 := rx1) (rx2 := rx2) (rest := .ok [] :: rest) rfl (by rw [State.beginTxn_answers, latched_answers, ha]; simp; rfl)
      h1 h2 ((dataExchangeFollows_split (s := (latched (.read a l) s).beginTxn .main (readCommand (wireAddress s.cfg a))) hf).trans
        rfl)
    have hconfig : configAnswers ((latched (.read a l) s).beginTxn .main (readCommand (wireAddress s.cfg a))) = configAnswers s :=
      configAnswers_congr (latched_configured (.read a l) s)
    refine ⟨_, (exec_runFrom rfl hwf hb hp).trans (congrArg _ ?_),
      (progress_firstReleased (.read a l) s .main (readCommand (wireAddress s.cfg a)) (zeros l) rx2
        [.xfer (readCommand (wireAddress s.cfg a)) (.ok rx1), .xfer (zeros l) (.ok rx2)] rest).returned (.bytes rx2) rfl⟩
    calc runFrom readProgram (latched (.read a l) s)
        = runFrom readProgram _ := runFrom_validate rfl hframe
      _ = runFrom readProgram _ := runFrom_released hlead (by rw [latched_answers, ha, hconfig]; simp; omega)
      _ = _ := runFrom_return rfl (read_next_split hf)
  · refine exec_single (i := .read a l) (g := .main) (f := readCommand (wireAddress s.cfg a) ++ zeros l) rfl hwf hb hp ?_
      (fun u _ hrx hcfg => ?_) ?_ ?_ ha
    · exact (read_validate haddr).trans (congrArg (State.beginTxn .main · _) (by simp only [readFrame, latched, latch, hf]))
    · exact (read_next_joined (by rw [hcfg, hf])).trans (by rw [hrx, ← h1, List.drop_left])
    · simp [readCommand, h1, h2]; omega
    · simp [readCommand]; omega

/-! ### The writing operations up to the idle check -/

/-- The three operations that write the array, which check that the chip is idle (R176). -/
def WritesArray (i : Instr) : Prop := i = .eraseFull ∨ (∃ a d, i = .byteProgram a d) ∨ ∃ a buf, i = .aaiProgram a buf

theorem writesArray_isHostOp {i : Instr} (h : WritesArray i) : i.isHostOp = true ∧ i.wf = true := by
  obtain rfl | ⟨a, d, rfl⟩ | ⟨a, buf, rfl⟩ := h <;> exact ⟨rfl, rfl⟩

theorem writesArray_validate {i : Instr} (s : State) (h : WritesArray i) (hr : Instr.reachesTransaction i = true) :
    (microprogram (latch i s).op).validate (latched i s) = (latched i s).beginTxn .enable wrenBytes := by
  obtain rfl | ⟨a, d, rfl⟩ | ⟨a, buf, rfl⟩ := h
  · rfl
  · exact byteProgram_validate (of_decide_eq_true hr)
  · simp only [Instr.reachesTransaction, Bool.and_eq_true, decide_eq_true_eq] at hr
    exact aaiProgram_validate hr.1.1 hr.1.2 hr.2

theorem writesArray_next_enable {i : Instr} (s : State) (h : WritesArray i) (u : State) (hg : u.stage = .enable) :
    (microprogram (latch i s).op).next u = u.beginTxn .check rdsrBytes := by
  obtain rfl | ⟨a, d, rfl⟩ | ⟨a, buf, rfl⟩ := h
  · exact eraseFull_next_enable u hg
  · exact byteProgram_next_enable u hg
  · exact aaiProgram_next_enable u hg

theorem writesArray_next_busy {i : Instr} (s : State) (h : WritesArray i) {u : State} (hg : u.stage = .check)
    (hr : statusResponse true u.rx) : (microprogram (latch i s).op).next u = u.raise .busy := by
  obtain rfl | ⟨a, d, rfl⟩ | ⟨a, buf, rfl⟩ := h
  · exact (eraseFull_next_check hg).trans (assertNotBusy_busy _ hr)
  · exact byteProgram_next_busy hg hr
  · exact (aaiProgram_next_check hg).trans (assertNotBusy_busy _ hr)

/-- The events of the WREN frame and of the status read after it. -/
def idleCheckEntries (s : State) (rx1 rx2 : List Byte) : List Entry :=
  configEntries s ++ txnEntries wrenBytes rx1 ++ txnEntries rdsrBytes rx2

theorem progress_idleChecked (i : Instr) (s : State) (rx1 rx2 : List Byte) (rest : List Answer) :
    Progress s (idleChecked (latched i s) rx1 rx2 rest) (idleCheckEntries s rx1 rx2) :=
  (progress_first i s .enable wrenBytes rx1 _).txn .check rdsrBytes rx2 rest

/-- A writing operation whose operands pass comes to its idle check. -/
theorem exec_idleChecked {i : Instr} {s : State} {rx1 rx2 : List Byte} {rest : List Answer} (hi : WritesArray i)
    (hr : Instr.reachesTransaction i = true) (hb : s.cfg.admits i = true) (hp : s.phase = .idle) (h1 : rx1.length = 1)
    (h2 : rx2.length = 2) (ha : s.answers = configAnswers s ++ (txnAnswers rx1 ++ txnAnswers rx2 ++ rest)) :
    exec i s = .next (runFrom (microprogram (latch i s).op) (idleChecked (latched i s) rx1 rx2 rest)) := by
  rw [exec_runFrom (writesArray_isHostOp hi).1 (writesArray_isHostOp hi).2 hb hp,
    runFrom_validate rfl (writesArray_validate s hi hr), runFrom, settle_atEvent _ (windowStart_atEvent _), State.beginTxn_answers,
    advance_idleCheck (writesArray_next_enable s hi) (rx1 := rx1) (rx2 := rx2) (rest := rest)
      (by rw [configAnswers_congr (latched_configured i s), latched_answers, ha]; simp) h1 h2]
  rfl

/-- Settles O44: the status read shows busy, and the operation raises Busy. -/
theorem busyChipEndsOperationBeforeItsFrame : Obligations.BusyChipEndsOperationBeforeItsFrame := by
  intro s a d buf rx1 rx2 rest hp haddr hlen heven h1 h2 ha i hi hb
  have hw : WritesArray i := hi.imp_right (Or.imp (fun h => ⟨a, d, h⟩) fun h => ⟨a, buf, h⟩)
  have hr : Instr.reachesTransaction i = true := by
    obtain rfl | rfl | rfl := hi
    · rfl
    · exact decide_eq_true haddr
    · simp [Instr.reachesTransaction, haddr, hlen, heven]
  have hraise := runFrom_raise (m := microprogram (latch i s).op) rfl
    (writesArray_next_busy s hw (u := idleChecked (latched i s) rx1 rx2 rest) rfl h2)
  exact ⟨_, (exec_idleChecked hw hr hb hp h1 h2.1 (by rw [ha]; simp)).trans (congrArg _ hraise),
    ((progress_idleChecked i s rx1 rx2 rest).raised .busy rfl).congr (by simp [idleCheckEntries]; rfl)⟩

/-! ### The wait after the frame -/

/-- A wait that ends, and the operation returns. -/
theorem Progress.waitReturns {s u : State} {entries : List Entry} (h : Progress s u entries) {m : Microprogram}
    (hm : ∀ u : State, u.stage = .poll → m.next u = pollAgain (State.returnOk .unit) u) {busy : List (List Byte)}
    {last : List Byte} {rest : List Answer} (hw : waitResponses busy last) (ha : u.answers = waitAnswers busy last ++ rest) :
    Finished s (runFrom m (u.beginTxn .poll rdsrBytes)) (entries ++ waitEntries busy last) (.ok .unit) rest := by
  obtain ⟨hrun, hn⟩ := runFrom_wait hm h.configured hw ha
  rw [hrun, runFrom_return rfl hn]
  exact (h.wait busy last rest).returned .unit rfl

/-! ### erase_full -/

/-- The state in NEXT when `erase_full` has found the chip idle and sent its frame. -/
def eraseSent (s : State) (rx1 rx2 rx3 : List Byte) (rest : List Answer) : State :=
  windowDone ((idleChecked (latched .eraseFull s) rx1 rx2 (txnAnswers rx3 ++ rest)).beginTxn .main chipEraseBytes) rx3 rest

theorem progress_eraseSent (s : State) (rx1 rx2 rx3 : List Byte) (rest : List Answer) :
    Progress s (eraseSent s rx1 rx2 rx3 rest) (idleCheckEntries s rx1 rx2 ++ txnEntries chipEraseBytes rx3) :=
  (progress_idleChecked .eraseFull s rx1 rx2 _).txn .main chipEraseBytes rx3 rest

/-- `erase_full` comes to the start of its wait, in both modes (R191). -/
theorem exec_eraseFull_waits {s : State} {rx1 rx2 rx3 : List Byte} {rest : List Answer} (hp : s.phase = .idle)
    (h1 : rx1.length = 1) (h2 : statusResponse false rx2) (h3 : rx3.length = 1)
    (ha : s.answers = configAnswers s ++ (txnAnswers rx1 ++ txnAnswers rx2 ++ (txnAnswers rx3 ++ rest))) :
    exec .eraseFull s = .next (runFrom eraseFullProgram ((eraseSent s rx1 rx2 rx3 rest).beginTxn .poll rdsrBytes)) := by
  rw [exec_idleChecked (.inl rfl) rfl rfl hp h1 h2.1 ha]
  refine congrArg _ ?_
  calc runFrom eraseFullProgram (idleChecked (latched .eraseFull s) rx1 rx2 (txnAnswers rx3 ++ rest))
      = runFrom eraseFullProgram _ := runFrom_next rfl ((eraseFull_next_check rfl).trans (assertNotBusy_idle _ h2)) rfl
    _ = runFrom eraseFullProgram _ := (progress_idleChecked .eraseFull s rx1 rx2 _).runFrom_txn rfl h3 (by decide)
    _ = _ := runFrom_next rfl (eraseFull_next_main rfl) rfl

/-- Settles O33: three transactions and the wait. -/
theorem eraseFullCompletes : Obligations.EraseFullCompletes := by
  intro s rx1 rx2 rx3 busy last rest hp h1 h2 h3 hw ha
  exact ⟨_, exec_eraseFull_waits hp h1 h2 h3 (by rw [ha]; simp),
    ((progress_eraseSent s rx1 rx2 rx3 (waitAnswers busy last ++ rest)).waitReturns eraseFull_next_poll hw rfl).congr
      (by simp [idleCheckEntries]; rfl)⟩

/-! ### byte_program -/

theorem progress_byteSent (a : Addr) (d : Byte) (s : State) (rx1 rx2 rx3 : List Byte) (rest : List Answer) :
    Progress s (byteSent a d s rx1 rx2 rx3 rest) (configEntries s ++ (txnEntries wrenBytes rx1 ++
      txnEntries rdsrBytes rx2 ++ txnEntries (byteProgBytes (wireAddress s.cfg a) d) rx3)) :=
  ⟨byteSent_trace .., rfl, rfl, rfl, rfl, rfl, rfl, rfl⟩

/-- A blocking `byte_program` comes to the start of its wait. -/
theorem exec_byteProgram_waits {a : Addr} {s : State} {rx1 rx2 rx3 : List Byte} {rest : List Answer} (d : Byte)
    (hp : s.phase = .idle) (hblocking : s.blocking = true) (haddr : a.toNat ≤ 16777216) (h1 : rx1.length = 1)
    (h2 : statusResponse false rx2) (h3 : rx3.length = 5)
    (ha : s.answers = configAnswers s ++ (txnAnswers rx1 ++ txnAnswers rx2 ++ txnAnswers rx3) ++ rest) :
    exec (.byteProgram a d) s = .next (runFrom byteProgramProgram ((byteSent a d s rx1 rx2 rx3 rest).beginTxn .poll rdsrBytes)) :=
  (exec_byteProgram_sends d hp haddr h1 h2 h3 ha).trans
    (congrArg _ (runFrom_next (s := byteSent a d s rx1 rx2 rx3 rest) rfl (byteProgram_next_main_blocking rfl hblocking) rfl))

/-- Settles O46: the wait's poll fails. -/
theorem failedPollEndsByteProgram : Obligations.FailedPollEndsByteProgram := by
  intro a d s rx1 rx2 rx3 busy f rest hp hblocking haddr h1 h2 h3 hbusy hf ha
  exact ⟨_, exec_byteProgram_waits d hp hblocking haddr h1 h2 h3 (rest := pollAnswers busy ++ (f.answers ++ rest))
      (by rw [ha]; simp),
    ((progress_byteSent a d s rx1 rx2 rx3 _).pollFailure byteProgram_next_poll f hbusy hf rfl).congr (by simp; rfl)⟩

/-! ### aai_program -/

/-- `aai_program(a, buf)` in `u`, about to send chunk `i`, or the closing WRDI if `i` chunks are all. -/
def aaiSending (a : Addr) (buf : List Byte) (i : Nat) (u : State) : State :=
  if i < buf.length / 2 then
    State.beginTxn (if i = 0 then .main else .chunk) (aaiChunkFrame u.cfg a buf i) { u with idx := i }
  else State.beginTxn .disable wrdiBytes { u with idx := i }

theorem aaiSending_chunk {a : Addr} {buf : List Byte} {i : Nat} (u : State) (hi : i < buf.length / 2) : aaiSending a buf i u =
    State.beginTxn (if i = 0 then .main else .chunk) (aaiChunkFrame u.cfg a buf i) { u with idx := i } := if_pos hi

theorem aaiSending_disable {a : Addr} {buf : List Byte} {i : Nat} (u : State) (hi : i = buf.length / 2) :
    aaiSending a buf i u = State.beginTxn .disable wrdiBytes { u with idx := i } := if_neg (by omega)

theorem aaiChunkFrame_length (cfg : Config) (a : Addr) (buf : List Byte) (i : Nat) : (aaiChunkFrame cfg a buf i).length ≠ 4 := by
  unfold aaiChunkFrame
  split <;> simp [aaiFirstBytes, aaiNextBytes]

/-- The loop head sends the next chunk or the closing WRDI. -/
theorem aaiChunkDone_sending (u : State) : aaiChunkDone u = aaiSending u.addr u.buf (u.idx + 1) u := by
  by_cases h : u.idx + 2 ≤ u.buf.length / 2
  · rw [aaiChunkDone_chunk h, aaiSending_chunk u (by omega)]; rfl
  · rw [aaiChunkDone_last (by omega), aaiSending, if_neg (by omega)]

theorem runFrom_sending {m : Microprogram} {a : Addr} {buf : List Byte} {i : Nat} {s u : State} (hp : s.phase = .next)
    (h : m.next s = aaiSending a buf i u) (ha : u.answers = s.answers) : runFrom m s = runFrom m (aaiSending a buf i u) := by
  unfold aaiSending at *
  split at h
  · rw [if_pos ‹_›]; exact runFrom_next hp h ha
  · rw [if_neg ‹_›]; exact runFrom_next hp h ha

section
variable {a : Addr} {buf : List Byte} {i : Nat} {s u : State} {entries : List Entry} (h : Progress s u entries)
include h

theorem Progress.aaiSending_chunk (hi : i < buf.length / 2) : aaiSending a buf i u =
    State.beginTxn (if i = 0 then .main else .chunk) (aaiChunkFrame s.cfg a buf i) { u with idx := i } := by
  rw [Machine.aaiSending_chunk u hi, ← h.cfg]

/-- The state in NEXT when chunk `i` has been sent. -/
theorem Progress.chunkSent {rx : List Byte} {rest : List Answer} (hi : i < buf.length / 2)
    (ha : u.answers = txnAnswers rx ++ rest) (hl : rx.length = (aaiChunkFrame s.cfg a buf i).length) :
    ∃ v : State, runFrom aaiProgramProgram (aaiSending a buf i u) = runFrom aaiProgramProgram (v.beginTxn .poll rdsrBytes) ∧
      v.answers = rest ∧ v.addr = u.addr ∧ v.buf = u.buf ∧ v.idx = i ∧
      Progress s v (entries ++ txnEntries (aaiChunkFrame s.cfg a buf i) rx) := by
  have hp := (h.withIdx i).txn (if i = 0 then .main else .chunk) (aaiChunkFrame s.cfg a buf i) rx rest
  refine ⟨windowDone (State.beginTxn (if i = 0 then .main else .chunk) (aaiChunkFrame s.cfg a buf i) { u with idx := i }) rx rest,
    ?_, rfl, rfl, rfl, rfl, hp⟩
  rw [h.aaiSending_chunk hi, (h.withIdx i).runFrom_txn ha hl (aaiChunkFrame_length _ _ _ _)]
  refine runFrom_next rfl (aaiProgram_next_chunk ?_) rfl
  show (if i = 0 then Stage.main else .chunk) = .main ∨ (if i = 0 then Stage.main else .chunk) = .chunk
  split
  · exact .inl rfl
  · exact .inr rfl

/-- A chunk and its wait, both on the success path. -/
theorem Progress.chunk {c : ChunkRun} {rest : List Answer} (hi : i < buf.length / 2) (haddr : u.addr = a) (hbuf : u.buf = buf)
    (ha : u.answers = c.answers ++ rest) (hc : c.fits (aaiChunkFrame s.cfg a buf i)) :
    ∃ v : State, runFrom aaiProgramProgram (aaiSending a buf i u) = runFrom aaiProgramProgram (aaiSending a buf (i + 1) v) ∧
      v.answers = rest ∧ v.addr = a ∧ v.buf = buf ∧ Progress s v (entries ++ c.entries (aaiChunkFrame s.cfg a buf i)) := by
  obtain ⟨hl, hw⟩ := hc
  obtain ⟨v, hrun, hanswers, haddr', hbuf', hidx, hv⟩ := h.chunkSent (a := a) (rest := waitAnswers c.busy c.last ++ rest) hi
    (by rw [ha, ChunkRun.answers, List.append_assoc]) hl
  obtain ⟨hrun', hn⟩ := runFrom_wait aaiProgram_next_poll hv.configured hw hanswers
  have hdone := aaiChunkDone_sending (waitDone v c.busy c.last rest)
  rw [show (waitDone v c.busy c.last rest).addr = a from haddr'.trans haddr,
    show (waitDone v c.busy c.last rest).buf = buf from hbuf'.trans hbuf,
    show (waitDone v c.busy c.last rest).idx = i from hidx] at hdone
  refine ⟨waitDone v c.busy c.last rest, ?_, rfl, haddr'.trans haddr, hbuf'.trans hbuf, ?_⟩
  · rw [hrun, hrun', runFrom_sending rfl (hn.trans hdone) rfl]
  · rw [ChunkRun.entries, ← List.append_assoc]
    exact hv.wait c.busy c.last rest

end

theorem aaiChunkEntries_append (cfg : Config) (a : Addr) (buf : List Byte) (runs : List ChunkRun) (c : ChunkRun) :
    aaiChunkEntries cfg a buf (runs ++ [c]) =
      aaiChunkEntries cfg a buf runs ++ c.entries (aaiChunkFrame cfg a buf runs.length) := by
  simp [aaiChunkEntries, List.mapIdx_append]

theorem aaiRunsFit_append {cfg : Config} {a : Addr} {buf : List Byte} {runs : List ChunkRun} {c : ChunkRun}
    (h : aaiRunsFit cfg a buf (runs ++ [c])) :
    aaiRunsFit cfg a buf runs ∧ c.fits (aaiChunkFrame cfg a buf runs.length) := by
  constructor
  · intro i c' hc
    have hi : i < runs.length := (List.getElem?_eq_some_iff.1 hc).1
    exact h i c' (by rw [List.getElem?_append_left hi, hc])
  · exact h runs.length c (by simp)

/-- The first chunks with their waits, all on the success path: the operation is about to send the next, or the closing WRDI. -/
theorem Progress.chunks {a : Addr} {buf : List Byte} {s u : State} {entries : List Entry} (h : Progress s u entries)
    (haddr : u.addr = a) (hbuf : u.buf = buf) (runs : List ChunkRun) :
    ∀ rest : List Answer, runs.length ≤ buf.length / 2 → aaiRunsFit s.cfg a buf runs →
      u.answers = runs.flatMap ChunkRun.answers ++ rest →
      ∃ v : State, runFrom aaiProgramProgram (aaiSending a buf 0 u) = runFrom aaiProgramProgram (aaiSending a buf runs.length v) ∧
        v.answers = rest ∧ v.addr = a ∧ v.buf = buf ∧ Progress s v (entries ++ aaiChunkEntries s.cfg a buf runs) := by
  induction runs using List.reverseRecOn with
  | nil =>
    intro rest _ _ ha
    exact ⟨u, rfl, ha, haddr, hbuf, by simpa [aaiChunkEntries] using h⟩
  | append_singleton runs c ih =>
    intro rest hlen hfit ha
    rw [List.length_append, List.length_singleton] at hlen ⊢
    obtain ⟨hfit, hc⟩ := aaiRunsFit_append hfit
    obtain ⟨v, hrun, hanswers, haddr', hbuf', hv⟩ := ih (c.answers ++ rest) (by omega) hfit (by rw [ha]; simp)
    obtain ⟨w, hrun', hanswers', haddr'', hbuf'', hw⟩ := hv.chunk (by omega) haddr' hbuf' hanswers hc
    refine ⟨w, hrun.trans hrun', hanswers', haddr'', hbuf'', ?_⟩
    rw [aaiChunkEntries_append, ← List.append_assoc]
    exact hw

section
variable {a : Addr} {buf : List Byte} {s : State} {rx1 rx2 : List Byte} {runs : List ChunkRun} {rest : List Answer}
  (hp : s.phase = .idle) (hb : s.cfg.admits (.aaiProgram a buf) = true) (haddr : a.toNat ≤ 16777216) (hlen : 2 ≤ buf.length)
  (heven : buf.length % 2 = 0) (h1 : rx1.length = 1) (h2 : statusResponse false rx2) (hruns : runs.length ≤ buf.length / 2)
  (hfit : aaiRunsFit s.cfg a buf runs)
  (ha : s.answers = configAnswers s ++ (txnAnswers rx1 ++ txnAnswers rx2 ++ (runs.flatMap ChunkRun.answers ++ rest)))
include hp hb haddr hlen heven h1 h2 hruns hfit ha

/-- `aai_program` comes through its idle check and the first chunks. -/
theorem exec_aaiProgram_chunks :
    ∃ v : State, exec (.aaiProgram a buf) s = .next (runFrom aaiProgramProgram (aaiSending a buf runs.length v)) ∧
      v.answers = rest ∧ Progress s v (idleCheckEntries s rx1 rx2 ++ aaiChunkEntries s.cfg a buf runs) := by
  have hr : Instr.reachesTransaction (.aaiProgram a buf) = true := by simp [Instr.reachesTransaction, haddr, hlen, heven]
  have hchecked := progress_idleChecked (.aaiProgram a buf) s rx1 rx2 (runs.flatMap ChunkRun.answers ++ rest)
  have hfirst : aaiProgramProgram.next (idleChecked (latched (.aaiProgram a buf) s) rx1 rx2 (runs.flatMap ChunkRun.answers ++ rest)) =
      aaiSending a buf 0 (idleChecked (latched (.aaiProgram a buf) s) rx1 rx2 (runs.flatMap ChunkRun.answers ++ rest)) := by
    rw [aaiProgram_next_check rfl, assertNotBusy_idle _ h2, aaiSending_chunk _ (by omega)]; rfl
  obtain ⟨v, hrun, hanswers, -, -, hv⟩ := hchecked.chunks (a := a) (buf := buf) rfl rfl runs rest hruns hfit rfl
  refine ⟨v, ?_, hanswers, hv⟩
  rw [exec_idleChecked (.inr (.inr ⟨a, buf, rfl⟩)) hr hb hp h1 h2.1 ha, ← hrun]
  exact congrArg _ (runFrom_sending rfl hfirst rfl)

end

/-- Settles O35: all chunks, then the closing WRDI. -/
theorem aaiProgramCompletes : Obligations.AaiProgramCompletes := by
  intro a buf s rx1 rx2 rx3 runs rest hp hb haddr hlen heven h1 h2 h3 hruns hfit ha
  obtain ⟨v, hexec, hanswers, hv⟩ := exec_aaiProgram_chunks hp hb haddr hlen heven h1 h2 hruns.le hfit
    (rest := txnAnswers rx3 ++ rest) (by rw [ha]; simp)
  have hclosed := (hv.withIdx runs.length).txn .disable wrdiBytes rx3 rest
  refine ⟨_, hexec.trans (congrArg _ ?_), (hclosed.returned .unit rfl).congr (by simp [idleCheckEntries]; rfl)⟩
  rw [aaiSending_disable v hruns, (hv.withIdx runs.length).runFrom_txn (f := wrdiBytes) hanswers h3 (by decide)]
  exact runFrom_return rfl (aaiProgram_next_disable rfl)

/-- Settles O47: the wait's poll fails, after the frame of `erase_full`, or after any chunk. -/
theorem failedPollEndsEraseAndAai : Obligations.FailedPollEndsEraseAndAai := by
  constructor
  · intro s rx1 rx2 rx3 busy f rest hp h1 h2 h3 hbusy hf ha
    exact ⟨_, exec_eraseFull_waits hp h1 h2 h3 (rest := pollAnswers busy ++ (f.answers ++ rest)) (by rw [ha]; simp),
      ((progress_eraseSent s rx1 rx2 rx3 _).pollFailure eraseFull_next_poll f hbusy hf rfl).congr
        (by simp [idleCheckEntries]; rfl)⟩
  · intro a buf s rx1 rx2 rx3 runs busy f rest hp hb haddr hlen heven h1 h2 hruns hfit h3 hbusy hf ha
    obtain ⟨v, hexec, hanswers, hv⟩ := exec_aaiProgram_chunks hp hb haddr hlen heven h1 h2 hruns.le hfit
      (rest := txnAnswers rx3 ++ (pollAnswers busy ++ (f.answers ++ rest))) (by rw [ha]; simp)
    obtain ⟨w, hrun, hanswers', -, -, -, hw⟩ := hv.chunkSent hruns hanswers h3
    exact ⟨_, hexec.trans (congrArg _ hrun),
      (hw.pollFailure aaiProgram_next_poll f hbusy hf hanswers').congr (by simp [idleCheckEntries]; rfl)⟩

/-- Settles O48: the transaction of a chunk fails, or that of the closing WRDI. -/
theorem failedChunkSendsNoWriteDisable : Obligations.FailedChunkSendsNoWriteDisable := by
  intro a buf s rx1 rx2 runs f rest hp hb haddr hlen heven h1 h2 hfit ha
  have ha' : s.answers = configAnswers s ++ (txnAnswers rx1 ++ txnAnswers rx2 ++ (runs.flatMap ChunkRun.answers ++
      (f.answers ++ rest))) := by rw [ha]; simp
  refine ⟨fun hruns hf => ?_, fun hruns hf => ?_⟩
  · obtain ⟨v, hexec, hanswers, hv⟩ := exec_aaiProgram_chunks hp hb haddr hlen heven h1 h2 hruns.le hfit ha'
    refine ⟨_, hexec, ?_⟩
    rw [hv.aaiSending_chunk hruns]
    exact ((hv.withIdx runs.length).txnFailure _ f hf (aaiChunkFrame_length _ _ _ _) hanswers).congr
      (by simp [idleCheckEntries]; rfl)
  · obtain ⟨v, hexec, hanswers, hv⟩ := exec_aaiProgram_chunks hp hb haddr hlen heven h1 h2 hruns.le hfit ha'
    refine ⟨_, hexec, ?_⟩
    rw [aaiSending_disable v hruns]
    exact ((hv.withIdx runs.length).txnFailure _ f hf (by decide) hanswers).congr (by simp [idleCheckEntries]; rfl)

/-! ### Waiting -/

/-- Settles O49: in each of the three waits the block stands before the next poll when the answers end. -/
theorem waitHasNoBound : Obligations.WaitHasNoBound := by
  intro s a d buf rx1 rx2 rx3 busy hp h1 h2 hbusy
  refine ⟨fun h3 ha => ?_, fun h3 hblocking haddr ha => ?_, fun runs hb haddr hlen heven hruns hfit h3 ha => ?_⟩
  · obtain ⟨t, hrun, hphase, hframe, hresults, htrace⟩ :=
      (progress_eraseSent s rx1 rx2 rx3 (pollAnswers busy)).standsAtPoll eraseFull_next_poll hbusy rfl
    refine ⟨t, ?_, hphase, hframe, hresults, htrace.trans (by simp [idleCheckEntries]; rfl)⟩
    exact (exec_eraseFull_waits hp h1 h2 h3 (by rw [ha]; simp)).trans (congrArg _ hrun)
  · obtain ⟨t, hrun, hphase, hframe, hresults, htrace⟩ :=
      (progress_byteSent a d s rx1 rx2 rx3 (pollAnswers busy)).standsAtPoll byteProgram_next_poll hbusy rfl
    refine ⟨t, ?_, hphase, hframe, hresults, htrace.trans (by simp; rfl)⟩
    exact (exec_byteProgram_waits d hp hblocking haddr h1 h2 h3 (by rw [ha]; simp)).trans (congrArg _ hrun)
  · obtain ⟨v, hexec, hanswers, hv⟩ := exec_aaiProgram_chunks hp hb haddr hlen heven h1 h2 hruns.le hfit
      (rest := txnAnswers rx3 ++ pollAnswers busy) (by rw [ha]; simp)
    obtain ⟨w, hrun, hanswers', -, -, -, hw⟩ := hv.chunkSent hruns hanswers h3
    obtain ⟨t, hrun', hphase, hframe, hresults, htrace⟩ := hw.standsAtPoll aaiProgram_next_poll hbusy hanswers'
    exact ⟨t, hexec.trans (congrArg _ (hrun.trans hrun')), hphase, hframe, hresults,
      htrace.trans (by simp [idleCheckEntries]; rfl)⟩

end Sys2Proof.Machine
end

section
/-!
PROOFS. Runs side by side: what an event, VALIDATE and NEXT do as functions of what they read, and two runs kept alike by every phase
transition.
-/

namespace Sys2Proof.Machine

/-! ### What an event does, as a record -/

/-- What an event writes: PHASE and one entry of the trace always, every other register only where the field says so. -/
structure Effect where
  phase : Phase
  entry : Entry
  configured : Option Bool := none
  frame : Option (List Byte) := none
  rx : Option (List Byte) := none
  xres : Option XRes := none
  ce : Option Level := none
  wp : Option Level := none
  hold : Option Level := none
  result : Option OpResult := none

def Effect.apply (e : Effect) (s : State) : State :=
  { s with
    phase := e.phase
    trace := s.trace ++ [e.entry]
    answers := s.answers.tail
    configured := e.configured.getD s.configured
    frame := e.frame.getD s.frame
    rx := e.rx.getD s.rx
    xres := e.xres.getD s.xres
    ce := e.ce.getD s.ce
    wp := e.wp.getD s.wp
    hold := e.hold.getD s.hold
    result := e.result.or s.result }

/-- The event that the block stands at. -/
def eventOf (s : State) : Event :=
  match s.phase with
  | .cfgHold => .lineSet .hold .high
  | .cfgWp => .lineSet .wp .low
  | .ceLow => .lineSet .ce .low
  | .ceHigh => .lineSet .ce .high
  | _ => .xfer s.frame

/-- The effect of an exchange answered ok, before the release. -/
def exchangedEffect (frame rx : List Byte) : Effect :=
  { phase := .ceHigh, entry := .xfer frame (.ok rx), rx := some rx, xres := some .ok }

/-- The effect of a failed exchange: RX keeps its bytes (log 20). -/
def exchangeFailedEffect (frame : List Byte) (e : BusError) : Effect :=
  { phase := .ceHigh, entry := .xfer frame (.fail e), xres := some (.fail e) }

/-- The effect of the event that the block stands at, by the answer (R27, R130 to R137). -/
def effectOf (s : State) (a : Answer) : Effect :=
  match s.phase, a with
  | .cfgHold, .ok _ => { phase := .cfgWp, entry := .lineSet .hold .high none, hold := some .high }
  | .cfgHold, .fail c => { phase := .respond, entry := .lineSet .hold .high (some c.line), hold := some .x
                           result := some (.err (.holdLineFailure c.line)) }
  | .cfgWp, .ok _ => { phase := .ceLow, entry := .lineSet .wp .low none, wp := some .low, configured := some true }
  | .cfgWp, .fail c => { phase := .respond, entry := .lineSet .wp .low (some c.line), wp := some .x
                         result := some (.err (.writeProtectLineFailure c.line)) }
  | .ceLow, .ok _ => { phase := .xfer, entry := .lineSet .ce .low none, ce := some .low }
  | .ceLow, .fail c => { phase := .respond, entry := .lineSet .ce .low (some c.line), ce := some .x
                         result := some (.err (.enableLineFailure c.line)) }
  | .xfer, .ok rx =>
    if dataExchangeFollows s then
      { exchangedEffect s.frame (fitResponse s.trace s.frame.length rx) with phase := .xfer2, frame := some (zeros s.rlen) }
    else exchangedEffect s.frame (fitResponse s.trace s.frame.length rx)
  | .ceHigh, .ok _ =>
    match s.xres with
    | .ok => { phase := .next, entry := .lineSet .ce .high none, ce := some .high }
    | .fail e => { phase := .respond, entry := .lineSet .ce .high none, ce := some .high
                   result := some (.err (.transferFailure e)) }
  | .ceHigh, .fail c => { phase := .respond, entry := .lineSet .ce .high (some c.line), ce := some .x
                          result := some (.err (.enableLineFailure c.line)) }
  | _, .ok rx => exchangedEffect s.frame (fitResponse s.trace s.frame.length rx)
  | _, .fail c => exchangeFailedEffect s.frame c.bus

theorem answerTo_eq (e : Event) (s : State) : answerTo e s = ((answerTo e s).1, { s with answers := s.answers.tail }) := by
  cases h : s.answers with
  | nil => cases s; cases h; rfl
  | cons a rest => simp only [answerTo, h, List.tail_cons]

/-- An event applies its effect. -/
theorem tick_effect (m : Microprogram) {s : State} (h : s.phase.atEvent = true) :
    tick m s = (effectOf s (answerTo (eventOf s) s).1).apply s := by
  have hanswer := answerTo_eq (eventOf s) s
  generalize (answerTo (eventOf s) s).1 = a at hanswer ⊢
  cases hp : s.phase with
  | cfgHold =>
    rw [show eventOf s = .lineSet .hold .high by rw [eventOf, hp]] at hanswer
    simp only [tick, hp, cfgHoldPhase, lineSet, hanswer, effectOf]
    cases a <;> rfl
  | cfgWp =>
    rw [show eventOf s = .lineSet .wp .low by rw [eventOf, hp]] at hanswer
    simp only [tick, hp, cfgWpPhase, lineSet, hanswer, effectOf]
    cases a <;> rfl
  | ceLow =>
    rw [show eventOf s = .lineSet .ce .low by rw [eventOf, hp]] at hanswer
    simp only [tick, hp, ceLowPhase, lineSet, hanswer, effectOf]
    cases a <;> rfl
  | xfer =>
    rw [show eventOf s = .xfer s.frame by rw [eventOf, hp]] at hanswer
    simp only [tick, hp, xferPhase, xfer, hanswer, effectOf]
    cases a with
    | ok rx => cases dataExchangeFollows s <;> rfl
    | fail c => rfl
  | xfer2 =>
    rw [show eventOf s = .xfer s.frame by rw [eventOf, hp]] at hanswer
    simp only [tick, hp, xfer2Phase, xfer, hanswer, effectOf]
    cases a <;> rfl
  | ceHigh =>
    rw [show eventOf s = .lineSet .ce .high by rw [eventOf, hp]] at hanswer
    simp only [tick, hp, ceHighPhase, lineSet, hanswer, effectOf]
    cases a with
    | ok rx => obtain ⟨_, _, _, _, _, _, _, _, _, _, _, xres, _⟩ := s; cases xres <;> rfl
    | fail c => rfl
  | _ => rw [hp] at h; cases h

/-! ### Two runs side by side -/

section
variable {op : HostOp} {R : State → State → Prop} (hphase : ∀ s u, R s u → s.phase = u.phase)
  (htick : ∀ s u, R s u → (s.phase.atEvent = true → s.answers ≠ []) →
    R (tick (microprogram op) s) (tick (microprogram op) u))
include hphase htick

theorem settle_lockstep {s u : State} (h : R s u) : R (settle (microprogram op) s) (settle (microprogram op) u) := by
  have hquiet (s u : State) (h : R s u) : R (quiet (microprogram op) s) (quiet (microprogram op) u) := by
    unfold quiet
    rw [← hphase s u h]
    split
    · exact h
    · exact htick s u h fun he => absurd he ‹_›
  exact hquiet _ _ (hquiet _ _ h)

theorem advance_lockstep (n : Nat) : ∀ s u : State, R s u → n ≤ s.answers.length →
    R (advance (microprogram op) n s) (advance (microprogram op) n u) := by
  induction n with
  | zero => intro s u h _; exact h
  | succ n ih =>
    intro s u h hn
    have hp := hphase s u h
    cases he : s.phase.atEvent with
    | true =>
      rw [advance_event _ n he, advance_event _ n (hp ▸ he)]
      have hne : s.answers ≠ [] := List.ne_nil_of_length_pos (by omega)
      have hlength : n ≤ (settle (microprogram op) (tick (microprogram op) s)).answers.length := by
        rw [settle_answers, tick_effect _ he]
        simp only [Effect.apply, List.length_tail]
        omega
      exact ih _ _ (settle_lockstep hphase htick (htick s u h fun _ => hne)) hlength
    | false => rw [advance_rest _ _ he, advance_rest _ _ (hp ▸ he)]; exact h

/-- Two runs that every phase transition keeps alike end alike. -/
theorem runFrom_lockstep {s u : State} (h : R s u) (ha : s.answers.length = u.answers.length) :
    R (runFrom (microprogram op) s) (runFrom (microprogram op) u) := by
  rw [runFrom, runFrom, ← ha]
  exact advance_lockstep hphase htick _ _ _ (settle_lockstep hphase htick h) (by rw [settle_answers])

end

/-! ### The operations' own parts read alike -/

/-- The latches that the operation `op` uses are alike (R23). -/
structure LatchesAlike (op : HostOp) (s u : State) : Prop where
  statIn : op = .writeStatus → s.statIn = u.statIn
  addr : op = .byteProgram ∨ op = .aaiProgram ∨ op = .read → s.addr = u.addr
  data : op = .byteProgram → s.data = u.data
  buf : op = .aaiProgram → s.buf = u.buf
  rlen : op = .read → s.rlen = u.rlen
  bIn : op = .setBlocking → s.bIn = u.bIn

theorem LatchesAlike.of_eq {op : HostOp} {s u : State} (hstatIn : s.statIn = u.statIn) (haddr : s.addr = u.addr)
    (hdata : s.data = u.data) (hbuf : s.buf = u.buf) (hrlen : s.rlen = u.rlen) (hbIn : s.bIn = u.bIn) : LatchesAlike op s u :=
  ⟨fun _ => hstatIn, fun _ => haddr, fun _ => hdata, fun _ => hbuf, fun _ => hrlen, fun _ => hbIn⟩

/-- Whether bytes are a frame with one exchange (R82). -/
def PlainBytes (cfg : Config) (f : List Byte) : Prop :=
  ∃ i : Instr, Instr.isPlainFrame i = true ∧ encode cfg.wsPrelude i = .frame f

theorem PlainBytes.not_readCommand {cfg : Config} {f : List Byte} (h : PlainBytes cfg f) : isReadCommand f = false := by
  obtain ⟨i, hi, he⟩ := h
  exact plainFrame_not_readCommand hi he

theorem PlainBytes.length_le {cfg : Config} {f : List Byte} (h : PlainBytes cfg f) : f.length ≤ 6 := by
  obtain ⟨i, hi, he⟩ := h
  cases i <;> cases hi <;> cases he <;>
    simp [rdsrBytes, wrenBytes, wrdiBytes, wrsrBytes, byteProgBytes, aaiFirstBytes, aaiNextBytes, chipEraseBytes, preludeBytes]

theorem plainBytes_aaiChunk (cfg : Config) (a : Addr) (buf : List Byte) (i : Nat) : PlainBytes cfg (aaiChunkFrame cfg a buf i) := by
  rw [aaiChunkFrame]
  split
  · exact ⟨.aaiFirst .., rfl, rfl⟩
  · exact ⟨.aaiNext .., rfl, rfl⟩

/-- The errors of the operand checks (R120, R171). -/
def OperandError (k : OpError) : Prop := k = .invalidAddress ∨ k = .bufferTooSmall ∨ k = .bufferUneven

theorem aaiChecks_operandError {s : State} {k : OpError} (h : aaiChecks s = some k) : OperandError k := by
  unfold aaiChecks at h
  split_ifs at h
  · exact .inr (.inl (Option.some.inj h).symm)
  · exact .inr (.inr (Option.some.inj h).symm)
  · exact .inl (Option.some.inj h).symm

/-- Where two states go that take the same phase transition without an event: a transaction with the same frame begins, the same
error is raised, the same value returned, the flag written, the result presented, or nothing happens. IDX is alike after it where it
was, or is loaded with the same count; the two transactions of `aai_program` before its first chunk do without it. -/
inductive MovesAlike (op : HostOp) (s u : State) : State → State → Prop
  | opens (g : Stage) (f : List Byte) (n n' : Nat)
      (hframe : PlainBytes s.cfg f ∨ op = .read ∧ f = readFrame s.cfg (wireAddress s.cfg s.addr) s.rlen)
      (hidx : s.idx = u.idx → n = n') (hload : op = .aaiProgram → g = .enable ∨ g = .check ∨ n = n') :
      MovesAlike op s u (State.beginTxn g f { s with idx := n }) (State.beginTxn g f { u with idx := n' })
  | raises (k : OpError) (hk : OperandError k ∨ k = .busy) : MovesAlike op s u (s.raise k) (u.raise k)
  | returns (v : OpValue) : MovesAlike op s u (s.returnOk v) (u.returnOk v)
  | sets (hop : op = .setBlocking) :
      MovesAlike op s u (State.returnOk .unit { s with blocking := s.bIn }) (State.returnOk .unit { u with blocking := s.bIn })
  | presents (hp : s.phase = .respond) : MovesAlike op s u s.respond u.respond
  | rests (hp : s.phase = .idle) : MovesAlike op s u s u

section
variable {op : HostOp} {s u : State}

/-- A transaction that leaves IDX alone. -/
theorem MovesAlike.opensPlain (g : Stage) {f : List Byte} (hf : PlainBytes s.cfg f)
    (hload : op = .aaiProgram → g = .enable ∨ g = .check ∨ s.idx = u.idx) :
    MovesAlike op s u (s.beginTxn g f) (u.beginTxn g f) := .opens g f s.idx u.idx (.inl hf) id hload

theorem MovesAlike.validates {k : OpError} (b : Bool) (hk : OperandError k)
    (h : MovesAlike op s u (s.beginTxn .enable wrenBytes) (u.beginTxn .enable wrenBytes)) :
    MovesAlike op s u (if b then s.beginTxn .enable wrenBytes else s.raise k)
      (if b then u.beginTxn .enable wrenBytes else u.raise k) := by
  cases b
  · exact .raises k (.inl hk)
  · exact h

/-- What VALIDATE does is a function of the latches and the configuration. -/
theorem validate_agree (hl : LatchesAlike op s u) (hcfg : s.cfg = u.cfg) :
    MovesAlike op s u ((microprogram op).validate s) ((microprogram op).validate u) := by
  have henable : MovesAlike op s u (s.beginTxn .enable wrenBytes) (u.beginTxn .enable wrenBytes) :=
    .opensPlain .enable ⟨.wren, rfl, rfl⟩ fun _ => .inl rfl
  cases op with
  | readStatus => exact .opensPlain .main ⟨.rdsr, rfl, rfl⟩ nofun
  | writeEnable => exact .opensPlain .main ⟨.wren, rfl, rfl⟩ nofun
  | writeDisable => exact .opensPlain .main ⟨.wrdi, rfl, rfl⟩ nofun
  | writeStatus => exact henable
  | eraseFull => exact henable
  | byteProgram =>
    simp only [microprogram, byteProgramProgram, ← hl.addr (.inl rfl)]
    exact .validates _ (.inl rfl) henable
  | aaiProgram =>
    have hc : aaiChecks u = aaiChecks s := by
      simp only [aaiChecks, State.len, hl.addr (.inr (.inl rfl)), hl.buf rfl]; rfl
    simp only [microprogram, aaiProgramProgram, hc]
    cases hk : aaiChecks s with
    | none => exact henable
    | some k => exact .raises k (.inl (aaiChecks_operandError hk))
  | read =>
    simp only [microprogram, readProgram, ← hl.addr (.inr (.inr rfl)), ← hl.rlen rfl, ← hcfg]
    cases addressAccepted s.addr
    · exact .raises _ (.inl (.inl rfl))
    · exact .opens _ _ s.idx u.idx (.inr ⟨rfl, rfl⟩) id nofun
  | setBlocking =>
    rw [show (microprogram .setBlocking).validate u = State.returnOk .unit { u with blocking := s.bIn } by rw [hl.bIn rfl]; rfl]
    exact .sets rfl

theorem movesAlike_assert {go : State → State} (hrx : s.rx = u.rx) (h : MovesAlike op s u (go s) (go u)) :
    MovesAlike op s u (assertNotBusy go s) (assertNotBusy go u) := by
  have hb : busyBit u = busyBit s := by simp only [busyBit, statusByte, hrx]
  simp only [assertNotBusy, hb]
  split
  · exact .raises .busy (.inr rfl)
  · exact h

theorem movesAlike_wait {forced : Bool} {done : State → State} (hb : forced = true ∨ s.blocking = u.blocking)
    (hidx : op = .aaiProgram → s.idx = u.idx) (h : MovesAlike op s u (done s) (done u)) :
    MovesAlike op s u (waitFor forced done s) (waitFor forced done u) := by
  have hf : (u.blocking || forced) = (s.blocking || forced) := by obtain rfl | h := hb <;> simp [*]
  simp only [waitFor, hf]
  split
  · exact .opensPlain .poll ⟨.rdsr, rfl, rfl⟩ fun hop => .inr (.inr (hidx hop))
  · exact h

theorem movesAlike_poll {done : State → State} (hrx : s.rx = u.rx) (hidx : op = .aaiProgram → s.idx = u.idx)
    (h : MovesAlike op s u (done s) (done u)) : MovesAlike op s u (pollAgain done s) (pollAgain done u) := by
  have hb : busyBit u = busyBit s := by simp only [busyBit, statusByte, hrx]
  simp only [pollAgain, hb]
  split
  · exact .opensPlain .poll ⟨.rdsr, rfl, rfl⟩ fun hop => .inr (.inr (hidx hop))
  · exact h

theorem movesAlike_chunkDone (hidx : s.idx = u.idx) (hbuf : s.buf = u.buf) :
    MovesAlike op s u (aaiChunkDone s) (aaiChunkDone u) := by
  have hframe : aaiChunkFrame u.cfg u.addr u.buf (u.idx + 1) = aaiChunkFrame s.cfg s.addr s.buf (s.idx + 1) := by
    rw [aaiChunkFrame, aaiChunkFrame, if_neg (by omega), if_neg (by omega), hidx, hbuf]
  have hsucc : s.idx + 1 = u.idx + 1 := by rw [hidx]
  by_cases h : s.idx + 2 ≤ s.buf.length / 2
  · rw [aaiChunkDone_chunk h, aaiChunkDone_chunk (hidx ▸ hbuf ▸ h), hframe]
    exact .opens _ _ _ _ (.inl (plainBytes_aaiChunk ..)) (fun _ => hsucc) fun _ => .inr (.inr hsucc)
  · rw [aaiChunkDone_last (not_le.1 h), aaiChunkDone_last (hidx ▸ hbuf ▸ not_le.1 h)]
    exact .opens _ _ _ _ (.inl ⟨.wrdi, rfl, rfl⟩) (fun _ => hsucc) fun _ => .inr (.inr hsucc)

/-- What NEXT does is a function of the stage, the response, the latches, the configuration, of `blocking` for `byte_program` alone,
and of IDX for `aai_program` once its first chunk is out. -/
theorem next_agree (hl : LatchesAlike op s u) (hcfg : s.cfg = u.cfg) (hstage : s.stage = u.stage) (hrx : s.rx = u.rx)
    (hb : op = .byteProgram → s.blocking = u.blocking)
    (hidx : op = .aaiProgram → s.stage = .enable ∨ s.stage = .check ∨ s.idx = u.idx) :
    MovesAlike op s u ((microprogram op).next s) ((microprogram op).next u) := by
  cases op with
  | readStatus =>
    simp only [microprogram, readStatusProgram, statusByte, ← hrx]
    exact .returns _
  | writeEnable => exact .returns _
  | writeDisable => exact .returns _
  | writeStatus =>
    simp only [microprogram, writeStatusProgram, ← hstage, ← hcfg, ← hl.statIn rfl]
    split
    · exact .opensPlain .middle ⟨.wsPrelude, rfl, rfl⟩ nofun
    · exact .opensPlain .main ⟨.wrsr _, rfl, rfl⟩ nofun
    · exact .returns _
  | eraseFull =>
    simp only [microprogram, eraseFullProgram, ← hstage]
    split
    · exact .opensPlain .check ⟨.rdsr, rfl, rfl⟩ nofun
    · exact movesAlike_assert hrx (.opensPlain .main ⟨.chipErase, rfl, rfl⟩ nofun)
    · exact movesAlike_wait (.inl rfl) nofun (.returns _)
    · exact movesAlike_poll hrx nofun (.returns _)
    · exact .returns _
  | byteProgram =>
    have hframe : byteProgFrame u = byteProgFrame s := by simp only [byteProgFrame, hcfg, hl.addr (.inl rfl), hl.data rfl]
    simp only [microprogram, byteProgramProgram, ← hstage]
    split
    · exact .opensPlain .check ⟨.rdsr, rfl, rfl⟩ nofun
    · refine movesAlike_assert hrx ?_
      rw [hframe]
      exact .opensPlain .main ⟨.byteProg .., rfl, rfl⟩ nofun
    · exact movesAlike_wait (.inr (hb rfl)) nofun (.returns _)
    · exact movesAlike_poll hrx nofun (.returns _)
    · exact .returns _
  | aaiProgram =>
    have hframe : aaiFirstFrame u = aaiFirstFrame s := by
      simp only [aaiFirstFrame, bufByte, hcfg, hl.addr (.inr (.inl rfl)), hl.buf rfl]
    have hsent {g : Stage} (hg : s.stage = g) (he : g ≠ .enable) (hc : g ≠ .check) : s.idx = u.idx :=
      ((hidx rfl).resolve_left (hg ▸ he)).resolve_left (hg ▸ hc)
    have hdone (h : s.idx = u.idx) := movesAlike_chunkDone (op := .aaiProgram) h (hl.buf rfl)
    simp only [microprogram, aaiProgramProgram, ← hstage]
    split
    · exact .opensPlain .check ⟨.rdsr, rfl, rfl⟩ fun _ => .inr (.inl rfl)
    · refine movesAlike_assert hrx ?_
      rw [hframe]
      exact .opens _ _ _ _ (.inl ⟨.aaiFirst .., rfl, rfl⟩) (fun _ => rfl) fun _ => .inr (.inr rfl)
    · have h := hsent ‹s.stage = _› (by decide) (by decide)
      exact movesAlike_wait (.inl rfl) (fun _ => h) (hdone h)
    · have h := hsent ‹s.stage = _› (by decide) (by decide)
      exact movesAlike_wait (.inl rfl) (fun _ => h) (hdone h)
    · have h := hsent ‹s.stage = _› (by decide) (by decide)
      exact movesAlike_poll hrx (fun _ => h) (hdone h)
    · exact .returns _
  | read =>
    simp only [microprogram, readProgram, readData, ← hcfg, ← hrx]
    exact .returns _
  | setBlocking => exact .returns _

theorem tick_validate (m : Microprogram) (h : s.phase = .validate) : tick m s = m.validate s := by rw [tick, h]

theorem tick_next (m : Microprogram) (h : s.phase = .next) : tick m s = m.next s := by rw [tick, h]

theorem tick_respond (m : Microprogram) (h : s.phase = .respond) : tick m s = s.respond := by rw [tick, h]

theorem tick_idle (m : Microprogram) (h : s.phase = .idle) : tick m s = s := by rw [tick, h]

/-- A phase transition without an event reads PHASE, the configuration and the latches; in NEXT also what `next_agree` names. -/
theorem tick_agree (he : s.phase.atEvent = false) (hphase : s.phase = u.phase) (hl : LatchesAlike op s u) (hcfg : s.cfg = u.cfg)
    (hnext : s.phase = .next → s.stage = u.stage ∧ s.rx = u.rx ∧ (op = .byteProgram → s.blocking = u.blocking) ∧
      (op = .aaiProgram → s.stage = .enable ∨ s.stage = .check ∨ s.idx = u.idx)) :
    MovesAlike op s u (tick (microprogram op) s) (tick (microprogram op) u) := by
  cases hp : s.phase with
  | idle =>
    rw [tick_idle _ hp, tick_idle _ (hphase ▸ hp)]
    exact .rests hp
  | validate =>
    rw [tick_validate _ hp, tick_validate _ (hphase ▸ hp)]
    exact validate_agree hl hcfg
  | next =>
    obtain ⟨hstage, hrx, hb, hidx⟩ := hnext hp
    rw [tick_next _ hp, tick_next _ (hphase ▸ hp)]
    exact next_agree hl hcfg hstage hrx hb hidx
  | respond =>
    rw [tick_respond _ hp, tick_respond _ (hphase ▸ hp)]
    exact .presents hp
  | _ => rw [hp] at he; cases he

end

theorem answerTo_congr {e : Event} {s u : State} (ha : s.answers = u.answers) (ht : s.trace = u.trace) :
    (answerTo e u).1 = (answerTo e s).1 := by
  rw [answerTo, answerTo, ← ha, ← ht]
  cases s.answers <;> rfl

/-- Two states that stand at the same event with the same answers and trace, and in which every answer has the same effect. -/
theorem tick_event_agree (m : Microprogram) {s u : State} (he : s.phase.atEvent = true) (hphase : s.phase = u.phase)
    (hevent : eventOf u = eventOf s) (ha : s.answers = u.answers) (ht : s.trace = u.trace)
    (heffect : ∀ a, effectOf u a = effectOf s a) :
    ∃ a : Answer, tick m s = (effectOf s a).apply s ∧ tick m u = (effectOf s a).apply u := by
  refine ⟨_, tick_effect m he, ?_⟩
  rw [tick_effect m (hphase ▸ he), heffect, hevent, answerTo_congr ha ht]

theorem State.respond_eq (s : State) : s.respond = { s with
    phase := .idle
    results := s.results ++ (s.result.map fun r => (⟨r, s.configured, s.blocking⟩ : Report)).toList } := by
  unfold State.respond
  split
  · rw [‹s.result = _›]; rfl
  · rw [‹s.result = _›, Option.map_none, Option.toList_none, List.append_nil]

end Sys2Proof.Machine
end

section
/-!
PROOFS. The blocking flag changes no operation but `byte_program` (R191, R213): two runs that differ in the flag alone.
-/

namespace Sys2Proof.Machine

/-- The state with the blocking flag replaced, and other results reported. -/
def DiffersInFlag (b : Bool) (s u : State) : Prop := ∃ rs : List Report, u = { s with blocking := b, results := rs }

section
variable {b : Bool} {op : HostOp} {s u : State}

theorem DiffersInFlag.phase (h : DiffersInFlag b s u) : s.phase = u.phase := by obtain ⟨rs, rfl⟩ := h; rfl

theorem DiffersInFlag.moves (hset : op ≠ .setBlocking) {s' u' : State} (h : DiffersInFlag b s u)
    (hmove : MovesAlike op s u s' u') : DiffersInFlag b s' u' := by
  obtain ⟨rs, rfl⟩ := h
  cases hmove with
  | opens g f n n' hframe hidx hload => rw [hidx rfl]; exact ⟨rs, rfl⟩
  | raises k hk => exact ⟨rs, rfl⟩
  | returns v => exact ⟨rs, rfl⟩
  | sets hop => exact absurd hop hset
  | presents hp => rw [State.respond_eq, State.respond_eq]; exact ⟨_, rfl⟩
  | rests hp => exact ⟨rs, rfl⟩

theorem DiffersInFlag.tick (hb : op ≠ .byteProgram) (hset : op ≠ .setBlocking) (h : DiffersInFlag b s u) :
    DiffersInFlag b (tick (microprogram op) s) (tick (microprogram op) u) := by
  cases he : s.phase.atEvent with
  | true =>
    obtain ⟨rs, rfl⟩ := h
    obtain ⟨a, hs, hu⟩ := tick_event_agree (microprogram op) (u := { s with blocking := b, results := rs }) he rfl rfl rfl rfl
      fun _ => rfl
    rw [hs, hu]
    exact ⟨rs, rfl⟩
  | false =>
    refine h.moves hset ?_
    obtain ⟨rs, rfl⟩ := h
    exact tick_agree he rfl (.of_eq rfl rfl rfl rfl rfl rfl) rfl
      fun _ => ⟨rfl, rfl, fun h => absurd h hb, fun _ => .inr (.inr rfl)⟩

end

theorem latched_withBlocking (i : Instr) (s : State) (b : Bool) :
    latched i { s with blocking := b } = { latched i s with blocking := b } := by cases i <;> rfl

theorem latch_op_withBlocking (i : Instr) (s : State) (b : Bool) :
    (latch i { s with blocking := b }).op = (latch i s).op := by cases i <;> rfl

theorem latch_op_ne_byteProgram {i : Instr} {s : State} (hi : i.isHostOp = true) (h : ∀ a d, i ≠ .byteProgram a d) :
    (latch i s).op ≠ .byteProgram := by
  cases i with
  | byteProgram a d => exact absurd rfl (h a d)
  | _ => cases hi <;> exact nofun

/-- Settles O50: the two runs stay alike but for the flag and the reported results, phase by phase. -/
theorem blockingSteersByteProgramOnly : Obligations.BlockingSteersByteProgramOnly := by
  intro i s t b hi hbyte hset h
  obtain ⟨hp, hwf, hadmits, -⟩ := exec_hostOp_next hi h
  rw [exec_runFrom hi hwf hadmits hp] at h
  have hexec := exec_runFrom (s := { s with blocking := b }) hi hwf hadmits hp
  rw [latched_withBlocking, latch_op_withBlocking] at hexec
  obtain ⟨rs, hrun⟩ := runFrom_lockstep (R := DiffersInFlag b) (op := (latch i s).op) (fun _ _ => DiffersInFlag.phase)
    (fun _ _ h _ => h.tick (latch_op_ne_byteProgram hi hbyte) (latch_op_ne_setBlocking s hi hset))
    (s := latched i s) (u := { latched i s with blocking := b }) ⟨_, rfl⟩ rfl
  cases h
  exact ⟨_, hexec.trans (congrArg _ hrun), rfl, rfl, rfl, rfl, rfl, rfl, rfl, rfl, rfl⟩

end Sys2Proof.Machine
end

section
/-!
PROOFS. The latches and the work registers are loaded before they are read (R23, R24, R34): two runs that differ in them alone.
-/

namespace Sys2Proof.Machine

theorem effectOf_congr {s u : State} (a : Answer) (hphase : s.phase = u.phase) (hframe : s.frame = u.frame) (ht : s.trace = u.trace)
    (hcfg : s.cfg = u.cfg) (hrlen : dataExchangeFollows s = true → s.rlen = u.rlen) (hx : s.phase = .ceHigh → s.xres = u.xres) :
    effectOf u a = effectOf s a := by
  have hd : dataExchangeFollows u = dataExchangeFollows s := by simp only [dataExchangeFollows, hframe, hcfg]
  cases hp : s.phase with
  | xfer =>
    cases a with
    | ok rx =>
      simp only [effectOf, hp, hphase ▸ hp, ← hframe, ← ht, hd]
      cases hds : dataExchangeFollows s with
      | true => rw [hrlen hds]
      | false => rfl
    | fail c => simp only [effectOf, hp, hphase ▸ hp, ← hframe]
  | ceHigh => cases a <;> simp only [effectOf, hp, hphase ▸ hp, ← hx hp]
  | _ => cases a <;> simp only [effectOf, hp, hphase ▸ hp, ← hframe, ← ht]

/-- An event loads FRAME only for the data exchange of a split READ, XRES (and RX with an ok) before the release, the result before
it is presented; and NEXT follows a release after an exchange answered ok. -/
theorem effectOf_loads {s : State} (a : Answer) (h : s.phase.atEvent = true) :
    ((effectOf s a).frame = none ∨ dataExchangeFollows s = true ∧ (effectOf s a).frame = some (zeros s.rlen)) ∧
    ((effectOf s a).phase = .ceHigh →
      (∃ rx, (effectOf s a).rx = some rx ∧ (effectOf s a).xres = some .ok) ∨ ∃ e, (effectOf s a).xres = some (.fail e)) ∧
    ((effectOf s a).phase = .next → s.phase = .ceHigh ∧ s.xres = .ok) ∧
    ((effectOf s a).phase = .respond → ∃ r, (effectOf s a).result = some r) := by
  cases hp : s.phase with
  | xfer =>
    cases a with
    | ok rx =>
      cases hd : dataExchangeFollows s <;> simp [effectOf, hp, hd, exchangedEffect]
    | fail c => simp [effectOf, hp, exchangeFailedEffect]
  | ceHigh =>
    cases a with
    | ok rx => cases hx : s.xres <;> simp [effectOf, hp, hx]
    | fail c => simp [effectOf, hp]
  | xfer2 => cases a <;> simp [effectOf, hp, exchangedEffect, exchangeFailedEffect]
  | cfgHold => cases a <;> simp [effectOf, hp]
  | cfgWp => cases a <;> simp [effectOf, hp]
  | ceLow => cases a <;> simp [effectOf, hp]
  | _ => rw [hp] at h; cases h

/-- Two states alike where the block stands: in all that no latch or work register holds, and in the work registers that are loaded
there (FRAME and the stage in a transaction, IDX once it counts, XRES and RX at the release, the result in RESPOND). -/
structure StandsAlike (op : HostOp) (s u : State) : Prop where
  same : SameButRegisters s u
  window : s.phase.atEvent = true ∨ s.phase = .next → s.frame = u.frame ∧ s.stage = u.stage ∧
    (op = .aaiProgram → s.stage = .enable ∨ s.stage = .check ∨ s.idx = u.idx)
  frame : s.phase.atEvent = true → op = .read ∨ isReadCommand s.frame = false
  xres : s.phase = .ceHigh → s.xres = u.xres ∧ (s.xres = .ok → s.rx = u.rx)
  rx : s.phase = .next → s.rx = u.rx
  result : s.phase = .respond → s.result = u.result

/-- The states of two runs of the operation `op`. -/
structure RunsAlike (op : HostOp) (s u : State) : Prop where
  stands : StandsAlike op s u
  latches : LatchesAlike op s u
  opSame : s.op = u.op

theorem LatchesAlike.keep {op : HostOp} {s u s' u' : State} (h : LatchesAlike op s u) (hs : OperationKeeps op s s')
    (hu : OperationKeeps op u u') : LatchesAlike op s' u' where
  statIn hop := by rw [hs.statIn, hu.statIn, h.statIn hop]
  addr hop := by rw [hs.addr, hu.addr, h.addr hop]
  data hop := by rw [hs.data, hu.data, h.data hop]
  buf hop := by rw [hs.buf, hu.buf, h.buf hop]
  rlen hop := by rw [hs.rlen, hu.rlen, h.rlen hop]
  bIn hop := by rw [hs.bIn, hu.bIn, h.bIn hop]

section
variable {op : HostOp} {s u : State}

theorem SameButRegisters.phase (h : SameButRegisters s u) : s.phase = u.phase := by
  obtain ⟨-, -, hphase, -⟩ := h; exact hphase

theorem SameButRegisters.ports (h : SameButRegisters s u) : s.trace = u.trace ∧ s.answers = u.answers ∧ s.cfg = u.cfg := by
  obtain ⟨-, -, -, -, -, -, -, ht, -, ha, hcfg⟩ := h
  exact ⟨ht, ha, hcfg⟩

theorem SameButRegisters.effect (h : SameButRegisters s u) (e : Effect) : SameButRegisters (e.apply s) (e.apply u) := by
  obtain ⟨h1, h2, -, h4, h5, h6, h7, h8, h9, h10, h11⟩ := h
  simp only [SameButRegisters, Effect.apply, h1, h2, h4, h5, h6, h7, h8, h9, h10, h11, and_self]

theorem RunsAlike.event (h : RunsAlike op s u) (he : s.phase.atEvent = true) :
    StandsAlike op (tick (microprogram op) s) (tick (microprogram op) u) := by
  obtain ⟨ht, ha, hcfg⟩ := h.stands.same.ports
  obtain ⟨hframe, hstage, hidx⟩ := h.stands.window (.inl he)
  have hphase := h.stands.same.phase
  have hevent : eventOf u = eventOf s := by simp only [eventOf, hphase, hframe]
  have hread (hd : dataExchangeFollows s = true) : op = .read :=
    (h.stands.frame he).resolve_right (by rw [((dataExchangeFollows_iff s).1 hd).2]; decide)
  obtain ⟨a, hs, hu⟩ := tick_event_agree (microprogram op) he hphase hevent ha ht fun a =>
    effectOf_congr a hphase hframe ht hcfg (fun hd => h.latches.rlen (hread hd)) fun hp => (h.stands.xres hp).1
  obtain ⟨hf, hx, hnext, hrespond⟩ := effectOf_loads a he
  rw [hs, hu]
  refine ⟨h.stands.same.effect _, fun _ => ⟨congrArg (effectOf s a).frame.getD hframe, hstage, hidx⟩, fun _ => ?_,
    fun hp => ?_, fun hp => ?_, fun hp => ?_⟩
  · obtain hf | ⟨hd, -⟩ := hf
    · simp only [Effect.apply, hf]
      exact h.stands.frame he
    · exact .inl (hread hd)
  · obtain ⟨rx, hrx, hok⟩ | ⟨e, hfail⟩ := hx hp
    · simp only [Effect.apply, hrx, hok, Option.getD_some, implies_true, and_self]
    · simp only [Effect.apply, hfail, Option.getD_some, reduceCtorEq, false_implies, and_self]
  · obtain ⟨hp, hok⟩ := hnext hp
    exact congrArg (effectOf s a).rx.getD ((h.stands.xres hp).2 hok)
  · obtain ⟨r, hr⟩ := hrespond hp
    simp only [Effect.apply, hr, Option.some_or]

theorem windowStart_ne (c : Bool) : windowStart c ≠ .ceHigh ∧ windowStart c ≠ .next ∧ windowStart c ≠ .respond := by
  cases c <;> decide

theorem RunsAlike.moves (h : RunsAlike op s u) {s' u' : State} (hmove : MovesAlike op s u s' u') : StandsAlike op s' u' := by
  obtain ⟨h1, h2, h3, h4, h5, h6, h7, h8, h9, h10, h11⟩ := h.stands.same
  cases hmove with
  | opens g f n n' hframe hidx hload =>
    obtain ⟨hce, hnext, hrespond⟩ := windowStart_ne s.configured
    refine ⟨?_, fun _ => ⟨rfl, rfl, hload⟩, fun _ => ?_, fun hp => absurd hp hce, fun hp => absurd hp hnext,
      fun hp => absurd hp hrespond⟩
    · simp only [SameButRegisters, State.beginTxn, h1, h2, h4, h5, h6, h7, h8, h9, h10, h11, and_self]
    · obtain hf | ⟨hop, -⟩ := hframe
      · exact .inr hf.not_readCommand
      · exact .inl hop
  | raises k hk => exact ⟨by simp only [SameButRegisters, State.raise, *, and_self], nofun, nofun, nofun, nofun, fun _ => rfl⟩
  | returns v => exact ⟨by simp only [SameButRegisters, State.returnOk, *, and_self], nofun, nofun, nofun, nofun, fun _ => rfl⟩
  | sets hop =>
    have hb := h.latches.bIn hop
    exact ⟨by simp only [SameButRegisters, State.returnOk, *, and_self], nofun, nofun, nofun, nofun, fun _ => rfl⟩
  | presents hp =>
    have hr := h.stands.result hp
    rw [State.respond_eq, State.respond_eq]
    exact ⟨by simp only [SameButRegisters, *, and_self], nofun, nofun, nofun, nofun, nofun⟩
  | rests hp => exact h.stands

theorem RunsAlike.tick (h : RunsAlike op s u) : RunsAlike op (tick (microprogram op) s) (tick (microprogram op) u) := by
  have hs := tick_operationKeeps s (operationKeeps_refl op s)
  have hu := tick_operationKeeps u (operationKeeps_refl op u)
  refine ⟨?_, h.latches.keep hs hu, by rw [hs.op, hu.op, h.opSame]⟩
  cases he : s.phase.atEvent with
  | true => exact h.event he
  | false =>
    obtain ⟨-, hb, hphase, -, -, -, -, -, -, -, hcfg⟩ := h.stands.same
    refine h.moves (tick_agree he hphase h.latches hcfg fun hp => ?_)
    obtain ⟨-, hstage, hidx⟩ := h.stands.window (.inr hp)
    exact ⟨hstage, h.stands.rx hp, fun _ => hb, hidx⟩

end

/-- What one state does, in the form of what two alike do. -/
theorem tick_moves (op : HostOp) {s : State} (he : s.phase.atEvent = false) :
    MovesAlike op s s (tick (microprogram op) s) (tick (microprogram op) s) :=
  tick_agree he rfl (.of_eq rfl rfl rfl rfl rfl rfl) rfl fun _ => ⟨rfl, rfl, fun _ => rfl, fun _ => .inr (.inr rfl)⟩

theorem MovesAlike.phase {op : HostOp} {s u s' u' : State} (h : MovesAlike op s u s' u') :
    s'.phase.atEvent = true ∨ s'.phase = .respond ∨ s'.phase = .idle := by
  cases h with
  | opens g f n n' hframe hidx hload => exact .inl (windowStart_atEvent _)
  | raises k hk => exact .inr (.inl rfl)
  | returns v => exact .inr (.inl rfl)
  | sets hop => exact .inr (.inl rfl)
  | presents hp => exact .inr (.inr (State.respond_phase s))
  | rests hp => exact .inr (.inr hp)

/-- `settle` leaves the block at an event or in IDLE. -/
theorem settle_phase (op : HostOp) (s : State) :
    (settle (microprogram op) s).phase = .idle ∨ (settle (microprogram op) s).phase.atEvent = true := by
  cases he : s.phase.atEvent with
  | true => rw [settle_atEvent _ he]; exact .inr he
  | false =>
    have hquiet : settle (microprogram op) s = quiet (microprogram op) (tick (microprogram op) s) := by
      rw [settle, show quiet (microprogram op) s = tick (microprogram op) s by rw [quiet, he]; rfl]
    rw [hquiet, quiet]
    obtain h | h | h := (tick_moves op he).phase
    · rw [if_pos h]; exact .inr h
    · rw [if_neg (by rw [h]; decide), tick_respond _ h, State.respond_phase]; exact .inl rfl
    · rw [if_neg (by rw [h]; decide), tick_idle _ h]; exact .inl h

theorem runFrom_phase (op : HostOp) (s : State) :
    (runFrom (microprogram op) s).phase = .idle ∨ (runFrom (microprogram op) s).phase.atEvent = true :=
  advance_induct (P := fun u => u.phase = .idle ∨ u.phase.atEvent = true) (fun _ _ _ => settle_phase op _) _ _ (settle_phase op s)

theorem latch_agree (i : Instr) {s u : State} (hi : i.isHostOp = true) (h : SameButRegisters s u) :
    (latch i s).op = (latch i u).op ∧ LatchesAlike (latch i s).op (latched i s) (latched i u) ∧
      SameButRegisters (latched i s) (latched i u) := by
  obtain ⟨h1, h2, -, h4, h5, h6, h7, h8, h9, h10, h11⟩ := h
  cases i <;> cases hi <;>
    exact ⟨rfl, ⟨by simp [latch, latched], by simp [latch, latched], by simp [latch, latched], by simp [latch, latched],
      by simp [latch, latched], by simp [latch, latched]⟩, h1, h2, rfl, h4, h5, h6, h7, h8, h9, h10, h11⟩

/-- Settles O40: the two runs begin alike in VALIDATE with the request latched, and every phase transition keeps them alike. -/
theorem latchesAreNeverReadBeforeLoaded : Obligations.LatchesAreNeverReadBeforeLoaded := by
  intro i s u t hi hp hsame h
  obtain ⟨-, hwf, hadmits, -⟩ := exec_hostOp_next hi h
  obtain ⟨hop, hlatches, hlatched⟩ := latch_agree i hi hsame
  obtain ⟨-, -, hphase, -, -, -, -, -, -, hanswers, hcfg⟩ := hsame
  have hrun := runFrom_lockstep (R := RunsAlike (latch i s).op) (op := (latch i s).op) (fun _ _ h => h.stands.same.phase)
    (fun _ _ h _ => h.tick) (s := latched i s) (u := latched i u)
    ⟨⟨hlatched, nofun, nofun, nofun, nofun, nofun⟩, hlatches, hop⟩ (by rw [latched_answers, latched_answers, hanswers])
  have hu := exec_runFrom hi hwf (hcfg ▸ hadmits) (hphase ▸ hp)
  rw [exec_runFrom hi hwf hadmits hp] at h
  cases h
  rw [← hop] at hu
  refine ⟨_, hu, hrun.stands.same, hrun.opSame, fun hne => ?_⟩
  obtain ⟨hframe, hstage, -⟩ := hrun.stands.window (.inl ((runFrom_phase _ _).resolve_left hne))
  exact ⟨hframe, hstage⟩

end Sys2Proof.Machine
end

section
/-!
PROOFS. The error values of the ports are copied and never inspected (R142, D27): a run with every error value renamed.
-/

namespace Sys2Proof.Machine

section
variable (f : BusError → BusError) (g : LineError → LineError)

def Effect.rename (e : Effect) : Effect :=
  { e with
    entry := renameEntry f g e.entry
    xres := e.xres.map (renameXRes f)
    result := e.result.map (renameResult f g) }

theorem Effect.apply_rename (e : Effect) (s : State) : (e.rename f g).apply (s.rename f g) = (e.apply s).rename f g := by
  simp only [Effect.apply, Effect.rename, State.rename, List.map_append, List.map_tail, Option.getD_map, Option.map_or,
    List.map_cons, List.map_nil]

/-- A response that is long enough needs no free byte, so the trace does not matter to it. -/
theorem fitResponse_full (trace trace' : List Entry) {n : Nat} {rx : List Byte} (h : n ≤ rx.length) :
    fitResponse trace n rx = fitResponse trace' n rx := by
  refine List.map_congr_left fun i hi => ?_
  have hlt : i < rx.length := by have := List.mem_range.1 hi; omega
  rw [List.getD_eq_getElem _ _ hlt, List.getD_eq_getElem _ _ hlt]

theorem effectOf_rename (s : State) (a : Answer) (h : ∀ rx, a = .ok rx → s.frame.length ≤ rx.length) :
    effectOf (s.rename f g) (renameAnswer f g a) = (effectOf s a).rename f g := by
  have hfit {rx : List Byte} (ha : a = .ok rx) : fitResponse (s.rename f g).trace (s.rename f g).frame.length rx =
      fitResponse s.trace s.frame.length rx := fitResponse_full _ _ (h rx ha)
  have hp' : (s.rename f g).phase = s.phase := rfl
  have hd : dataExchangeFollows (s.rename f g) = dataExchangeFollows s := rfl
  cases a with
  | ok rx =>
    cases hp : s.phase with
    | xfer =>
      simp only [effectOf, renameAnswer, hp', hp, hd, hfit rfl]
      cases dataExchangeFollows s <;> rfl
    | ceHigh =>
      simp only [effectOf, renameAnswer, hp, State.rename]
      cases s.xres <;> rfl
    | _ => simp only [effectOf, renameAnswer, hp', hp, hfit rfl]; rfl
  | fail c => cases hp : s.phase <;> simp only [effectOf, renameAnswer, hp', hp] <;> rfl

theorem answerTo_rename (e : Event) {s : State} (h : s.answers ≠ []) :
    (answerTo e (s.rename f g)).1 = renameAnswer f g (answerTo e s).1 ∧ (answerTo e s).1 ∈ s.answers := by
  cases ha : s.answers with
  | nil => exact absurd ha h
  | cons a rest => simp [answerTo, State.rename, ha]

/-- Two runs of the operation `op`, the second with every error value renamed; the answers to come are long enough for the frames. -/
structure Renamed (op : HostOp) (s u : State) : Prop where
  eq : u = s.rename f g
  full : ∀ rx : List Byte, .ok rx ∈ s.answers → 6 ≤ rx.length ∧ (op = .read → 4 + s.rlen ≤ rx.length)
  frame : s.phase.atEvent = true →
    s.frame.length ≤ 6 ∧ isReadCommand s.frame = false ∨ op = .read ∧ s.frame.length ≤ 4 + s.rlen

end

section
variable {f : BusError → BusError} {g : LineError → LineError} {op : HostOp} {s u : State}

theorem Renamed.event (h : Renamed f g op s u) (m : Microprogram) (he : s.phase.atEvent = true) (hne : s.answers ≠ []) :
    Renamed f g op (tick m s) (tick m u) := by
  obtain ⟨rfl, hfull, hframe⟩ := h
  obtain ⟨ha, hmem⟩ := answerTo_rename f g (eventOf s) hne
  have hevent : eventOf (s.rename f g) = eventOf s := rfl
  rw [tick_effect m he, tick_effect m (s := s.rename f g) he, hevent, ha]
  generalize (answerTo (eventOf s) s).1 = a at hmem ⊢
  rw [effectOf_rename f g s a fun rx hrx => ?_, Effect.apply_rename]
  · refine ⟨rfl, fun rx hrx => hfull rx (List.mem_of_mem_tail hrx), fun _ => ?_⟩
    obtain ⟨hf | ⟨hd, hf⟩, -⟩ := effectOf_loads a he
    · simp only [Effect.apply, hf]
      exact hframe he
    · simp only [Effect.apply, hf, Option.getD_some, zeros_length]
      obtain ⟨-, hread⟩ | ⟨hop, -⟩ := hframe he
      · rw [((dataExchangeFollows_iff s).1 hd).2] at hread; cases hread
      · exact .inr ⟨hop, by omega⟩
  · obtain ⟨h6, hl⟩ := hfull rx (hrx ▸ hmem)
    obtain ⟨hle, -⟩ | ⟨hop, hle⟩ := hframe he
    · omega
    · exact hle.trans (hl hop)

theorem readFrame_length (cfg : Config) (a : WireAddr) (l : Nat) : (readFrame cfg a l).length ≤ 4 + l := by
  unfold readFrame
  split <;> simp [readCommand]

theorem Renamed.moves (h : Renamed f g op s u) {s' u' : State} (hmove : MovesAlike op s u s' u') : Renamed f g op s' u' := by
  obtain ⟨rfl, hfull, hevent⟩ := h
  cases hmove with
  | opens stage frame n n' hframe hidx hload =>
    refine ⟨by rw [hidx rfl]; rfl, hfull, fun _ => ?_⟩
    obtain hplain | ⟨hop, hread⟩ := hframe
    · exact .inl ⟨hplain.length_le, hplain.not_readCommand⟩
    · exact .inr ⟨hop, by rw [hread]; exact readFrame_length ..⟩
  | raises k hk =>
    have hcopy : renameResult f g (.err k) = .err k := by obtain (rfl | rfl | rfl) | rfl := hk <;> rfl
    exact ⟨by simp only [State.raise, State.rename, Option.map_some, hcopy], hfull, nofun⟩
  | returns v => exact ⟨rfl, hfull, nofun⟩
  | sets hop => exact ⟨rfl, hfull, nofun⟩
  | presents hp =>
    refine ⟨?_, by rw [State.respond_eq]; exact hfull, by rw [State.respond_phase]; nofun⟩
    rw [State.respond_eq, State.respond_eq]
    simp only [State.rename, List.map_append]
    cases s.result <;> rfl
  | rests hp => exact ⟨rfl, hfull, hevent⟩

theorem Renamed.tick (h : Renamed f g op s u) (hne : s.phase.atEvent = true → s.answers ≠ []) :
    Renamed f g op (tick (microprogram op) s) (tick (microprogram op) u) := by
  cases he : s.phase.atEvent with
  | true => exact h.event _ he (hne he)
  | false =>
    refine h.moves ?_
    obtain ⟨rfl, -, -⟩ := h
    exact tick_agree he rfl (.of_eq rfl rfl rfl rfl rfl rfl) rfl
      fun _ => ⟨rfl, rfl, fun _ => rfl, fun _ => .inr (.inr rfl)⟩

end

theorem latched_rename (f : BusError → BusError) (g : LineError → LineError) (i : Instr) (s : State) :
    latched i (s.rename f g) = (latched i s).rename f g := by cases i <;> rfl

theorem latch_op_rename (f : BusError → BusError) (g : LineError → LineError) (i : Instr) (s : State) :
    (latch i (s.rename f g)).op = (latch i s).op := by cases i <;> rfl

theorem latched_full {i : Instr} {s : State} (hi : i.isHostOp = true) (h : fullResponses i s.answers) (rx : List Byte)
    (hrx : .ok rx ∈ (latched i s).answers) :
    6 ≤ rx.length ∧ ((latch i s).op = .read → 4 + (latched i s).rlen ≤ rx.length) := by
  rw [latched_answers] at hrx
  obtain ⟨h6, hread⟩ := h rx hrx
  refine ⟨h6, fun hop => ?_⟩
  cases i with
  | read a l => exact hread a l rfl
  | _ => cases hi <;> cases hop

/-- Settles O51: the second run is the first with its error values renamed, at every phase. -/
theorem payloadsAreNeverInspected : Obligations.PayloadsAreNeverInspected := by
  intro f g i s t hi hfull h
  obtain ⟨hp, hwf, hadmits, -⟩ := exec_hostOp_next hi h
  have hexec := exec_runFrom (s := s.rename f g) hi hwf hadmits hp
  rw [latched_rename, latch_op_rename f g i s] at hexec
  have hrun := runFrom_lockstep (R := Renamed f g (latch i s).op) (op := (latch i s).op) (fun _ _ h => by rw [h.eq]; rfl)
    (fun _ _ h => h.tick) (s := latched i s) ⟨rfl, latched_full hi hfull, nofun⟩ (by simp [State.rename])
  rw [exec_runFrom hi hwf hadmits hp] at h
  cases h
  rw [hexec, hrun.eq]

end Sys2Proof.Machine
end

section
/-!
PROOFS. Steps resume an operation where its fixed answers ran out (R27, R28; log 10): each step, a whole transaction or one phase
transition, leads to the same outcome of the answers still to come.
-/

namespace Sys2Proof.Machine

/-! ### The outcome of the answers to come -/

section
variable {op : HostOp} {s : State}

theorem runFrom_idle (m : Microprogram) (h : s.phase = .idle) : runFrom m s = s := by
  rw [runFrom, settle_idle m h, advance_rest m _ (by rw [h]; rfl)]

/-- An answered event leads to the same outcome. -/
theorem runFrom_tick_event (he : s.phase.atEvent = true) (ha : s.answers ≠ []) :
    runFrom (microprogram op) (tick (microprogram op) s) = runFrom (microprogram op) s := by
  have hlength : s.answers.length = (tick (microprogram op) s).answers.length + 1 := by
    rw [tick_effect _ he]
    simp only [Effect.apply, List.length_tail]
    have := List.length_pos_of_ne_nil ha
    omega
  rw [runFrom, runFrom, settle_atEvent _ he, hlength, advance_event _ _ he]

/-- A phase without an event leads to the same outcome. -/
theorem runFrom_tick_quiet (he : s.phase.atEvent = false) :
    runFrom (microprogram op) (tick (microprogram op) s) = runFrom (microprogram op) s := by
  have hquiet : quiet (microprogram op) s = tick (microprogram op) s := by rw [quiet, he]; rfl
  have hrest (u : State) (hu : u.phase = .idle ∨ u.phase.atEvent = true) : quiet (microprogram op) u = u := by
    obtain hu | hu := hu
    · rw [quiet, tick_idle _ hu, ite_self]
    · rw [quiet, if_pos hu]
  have hsettle : settle (microprogram op) (tick (microprogram op) s) = settle (microprogram op) s := by
    rw [settle, ← hquiet]
    exact hrest _ (settle_phase op s)
  have ha : (tick (microprogram op) s).answers = s.answers := by
    rw [← settle_answers op s, ← hsettle, settle_answers]
  rw [runFrom, runFrom, hsettle, ha]

/-- The events of the transaction in progress lead to the same outcome. -/
theorem runFrom_runWindow (n : Nat) : ∀ s : State, n ≤ s.answers.length →
    runFrom (microprogram op) (runWindow n s) = runFrom (microprogram op) s := by
  induction n with
  | zero => intro s _; rfl
  | succ n ih =>
    intro s hn
    cases he : s.phase.atEvent with
    | true =>
      have hlength : n ≤ (tick (microprogram op) s).answers.length := by
        rw [tick_effect _ he]
        simp only [Effect.apply, List.length_tail]
        omega
      rw [runWindow_event n he (microprogram op), ih _ hlength,
        runFrom_tick_event he (List.ne_nil_of_length_pos (by omega))]
    | false => rw [runWindow_rest _ he]

theorem advance_moreAnswers (bs : List Answer) (n : Nat) : ∀ s : State, s.answers.length = n →
    (advance (microprogram op) n s).phase.atEvent = true →
    (advance (microprogram op) n s).answers = [] ∧
      advance (microprogram op) (n + bs.length) (s.withMoreAnswers bs) =
        advance (microprogram op) bs.length ((advance (microprogram op) n s).withMoreAnswers bs) := by
  induction n with
  | zero => intro s hs _; exact ⟨List.eq_nil_of_length_eq_zero hs, by rw [Nat.zero_add]; rfl⟩
  | succ n ih =>
    intro s hs he
    cases hev : s.phase.atEvent with
    | true =>
      have ha : s.answers ≠ [] := List.ne_nil_of_length_pos (by omega)
      rw [advance_event _ n hev] at he ⊢
      rw [Nat.succ_add_eq_add_succ n, Nat.add_succ, advance_event _ _ (s := s.withMoreAnswers bs) hev,
        tick_withMoreAnswers _ hev ha, settle_withMoreAnswers]
      refine ih _ ?_ he
      rw [settle_answers, tick_effect _ hev]
      simp only [Effect.apply, List.length_tail]
      omega
    | false =>
      rw [advance_rest _ _ hev, hev] at he
      cases he

/-- An operation that stands at an event has used up its answers, and with more of them it goes on from there. -/
theorem runFrom_moreAnswers (bs : List Answer) (he : (runFrom (microprogram op) s).phase.atEvent = true) :
    (runFrom (microprogram op) s).answers = [] ∧ runFrom (microprogram op) (s.withMoreAnswers bs) =
      runFrom (microprogram op) ((runFrom (microprogram op) s).withMoreAnswers bs) := by
  have hs : (settle (microprogram op) s).answers.length = s.answers.length := by rw [settle_answers]
  obtain ⟨hnil, hmore⟩ := advance_moreAnswers bs _ _ hs he
  refine ⟨hnil, ?_⟩
  have hlength : (s.withMoreAnswers bs).answers.length = s.answers.length + bs.length := List.length_append
  have hrest : runFrom (microprogram op) ((runFrom (microprogram op) s).withMoreAnswers bs) =
      advance (microprogram op) bs.length ((runFrom (microprogram op) s).withMoreAnswers bs) := by
    have hbs : ((runFrom (microprogram op) s).withMoreAnswers bs).answers = bs := congrArg (· ++ bs) hnil
    rw [runFrom, settle_atEvent _ (by exact he), hbs]
  rw [hrest, runFrom, settle_withMoreAnswers, hlength, hmore]
  rfl

end

/-! ### The step at the start of a transaction -/

theorem PlainBytes.ne_read {cfg : Config} {f : List Byte} (h : PlainBytes cfg f) (a : WireAddr) {l : Nat} (hl : 1 ≤ l) :
    f ≠ readCommand a ++ zeros l := by
  obtain ⟨i, hi, he⟩ := h
  rintro rfl
  obtain ⟨n, rfl⟩ := Nat.exists_eq_add_of_le' hl
  cases i with
  | wsPrelude => 
    have hlength := congrArg List.length (Encoded.frame.inj he)
    simp [preludeBytes, readCommand] at hlength
  | _ => cases hi <;> cases he

theorem PlainBytes.decodes {cfg : Config} {f : List Byte} (h : PlainBytes cfg f) :
    (decodeFrame cfg.wsPrelude f).toBool = true := by
  obtain ⟨i, hi, he⟩ := h
  by_cases hw : i = .wsPrelude
  · subst hw
    cases he
    exact decodeFrame_prelude _
  · have hwf : i.wf = true := by cases i <;> cases hi <;> rfl
    have hd := decodeInvertsEncode cfg.wsPrelude i hwf fun h => absurd h hw
    rw [he] at hd
    exact congrArg Except.toBool hd

/-- What FRAME holds at the start of a transaction of a run: a frame with one exchange, or the one of a READ of RLEN bytes. -/
def WindowReady (s : State) : Prop :=
  PlainBytes s.cfg s.frame ∨ 1 ≤ s.rlen ∧ ∃ a : WireAddr, s.frame = readFrame s.cfg a s.rlen

theorem WindowReady.step {s : State} (h : WindowReady s) (hp : s.phase = .cfgHold ∨ s.phase = .ceLow) :
    step s = issue s.frame s := by
  obtain hf | ⟨hl, a, hf⟩ := h
  · have hwindow : windowInstr s = decodeFrame s.cfg.wsPrelude s.frame := by
      rw [windowInstr, windowBytes_noData (dataExchangeFollows_of_not_readCommand hf.not_readCommand)]
    cases hd : decodeFrame s.cfg.wsPrelude s.frame with
    | error e => have hok := hf.decodes; rw [hd] at hok; cases hok
    | ok i =>
      obtain ⟨he, hwf, hi⟩ := frameDecodeIsExact s.cfg.wsPrelude s.frame i hd
      rw [step_window hp (hwindow.trans hd)]
      cases i with
      | readMem a l => exact absurd (Encoded.frame.inj he).symm (hf.ne_read a (of_decide_eq_true hwf))
      | _ => cases hi <;> exact exec_plainFrame rfl he
  · rw [step_window hp (windowInstr_of_read hf hl)]
    exact (if_neg (by omega)).trans (by rw [← hf])

/-! ### Resuming -/

/-- A state of a run of `op`: OP names it, PHASE and `configured` agree at the start of a transaction, and FRAME is ready there. -/
structure Resumable (op : HostOp) (s : State) : Prop where
  code : s.op = op
  rlen : op = .read → 1 ≤ s.rlen
  start : s.phase = .cfgHold ∨ s.phase = .ceLow → s.phase = windowStart s.configured
  frame : s.phase = .cfgHold ∨ s.phase = .cfgWp ∨ s.phase = .ceLow → WindowReady s

/-- Before the selection no event loads FRAME, and the one that goes on to it has configured the lines. -/
theorem effectOf_starts {s : State} (a : Answer) (h : s.phase.atEvent = true) :
    (effectOf s a).phase ≠ .cfgHold ∧
    ((effectOf s a).phase = .cfgWp ∨ (effectOf s a).phase = .ceLow →
      (s.phase = .cfgHold ∨ s.phase = .cfgWp) ∧ (effectOf s a).frame = none) ∧
    ((effectOf s a).phase = .ceLow → (effectOf s a).configured = some true) := by
  cases hp : s.phase with
  | xfer =>
    cases a with
    | ok rx => cases hd : dataExchangeFollows s <;> simp [effectOf, hp, hd, exchangedEffect]
    | fail c => simp [effectOf, hp, exchangeFailedEffect]
  | ceHigh =>
    cases a with
    | ok rx => cases hx : s.xres <;> simp [effectOf, hp, hx]
    | fail c => simp [effectOf, hp]
  | xfer2 => cases a <;> simp [effectOf, hp, exchangedEffect, exchangeFailedEffect]
  | cfgHold => cases a <;> simp [effectOf, hp]
  | cfgWp => cases a <;> simp [effectOf, hp]
  | ceLow => cases a <;> simp [effectOf, hp]
  | _ => rw [hp] at h; cases h

theorem Resumable.event {op : HostOp} {s : State} (h : Resumable op s) (he : s.phase.atEvent = true) (a : Answer) :
    Resumable op ((effectOf s a).apply s) := by
  obtain ⟨hhold, hwindow, hce⟩ := effectOf_starts a he
  refine ⟨h.code, h.rlen, fun hp => ?_, fun hp => ?_⟩
  · have hp := hp.resolve_left hhold
    rw [hp, show ((effectOf s a).apply s).configured = true by simp only [Effect.apply, hce hp, Option.getD_some]]
    rfl
  · obtain ⟨hs, hf⟩ := hwindow (hp.resolve_left hhold)
    simp only [WindowReady, Effect.apply, hf, Option.getD_none]
    exact h.frame (hs.imp_right .inl)

theorem Resumable.moves {op : HostOp} {s s' u' : State} (h : Resumable op s) (hmove : MovesAlike op s s s' u') :
    Resumable op s' := by
  cases hmove with
  | opens g f n n' hframe hidx hload =>
    refine ⟨h.code, h.rlen, fun _ => rfl, fun _ => hframe.imp_right ?_⟩
    rintro ⟨hop, hread⟩
    exact ⟨h.rlen hop, _, hread⟩
  | raises k hk => exact ⟨h.code, h.rlen, nofun, nofun⟩
  | returns v => exact ⟨h.code, h.rlen, nofun, nofun⟩
  | sets hop => exact ⟨h.code, h.rlen, nofun, nofun⟩
  | presents hp =>
    rw [State.respond_eq]
    exact ⟨h.code, h.rlen, nofun, nofun⟩
  | rests hp => exact h

theorem Resumable.tick {op : HostOp} {s : State} (h : Resumable op s) : Resumable op (tick (microprogram op) s) := by
  cases he : s.phase.atEvent with
  | true => rw [tick_effect _ he]; exact h.event he _
  | false => exact h.moves (tick_moves op he)

theorem Resumable.runWindow {op : HostOp} (n : Nat) : ∀ s : State, Resumable op s → Resumable op (runWindow n s) := by
  induction n with
  | zero => intro s h; exact h
  | succ n ih =>
    intro s h
    cases he : s.phase.atEvent with
    | true => rw [runWindow_event n he (microprogram op)]; exact ih _ h.tick
    | false => rw [runWindow_rest _ he]; exact h

/-- How many phases without an event stand before the next event or the end. -/
def Phase.quietPhases : Phase → Nat
  | .validate => 2
  | .next => 2
  | .respond => 1
  | _ => 0

theorem Phase.quietPhases_le (p : Phase) : p.quietPhases ≤ 2 := by cases p <;> decide

theorem Phase.quietPhases_le_one {p : Phase} (h : p.atEvent = true ∨ p = .respond ∨ p = .idle) : p.quietPhases ≤ 1 := by
  obtain h | rfl | rfl := h
  · cases p <;> cases h <;> decide
  · decide
  · decide

/-- What the steps from a state have before them: answers, each with the phases after its event. -/
def State.remaining (s : State) : Nat := 3 * s.answers.length + s.phase.quietPhases

section
variable {op : HostOp} {s : State}

theorem remaining_quiet (he : s.phase.atEvent = false) (hidle : s.phase ≠ .idle) :
    (tick (microprogram op) s).remaining < s.remaining := by
  have ha : (tick (microprogram op) s).answers = s.answers := by
    obtain ⟨_, _, _, _, _, _, _, -, -, -, htick⟩ := tick_quiet op he
    rw [htick]
  have hone := Phase.quietPhases_le_one (tick_moves op he).phase
  have hquiet : (tick (microprogram op) s).phase.quietPhases < s.phase.quietPhases := by
    cases hp : s.phase with
    | respond => rw [tick_respond _ hp, State.respond_phase]; decide
    | validate => exact Nat.lt_succ_of_le hone
    | next => exact Nat.lt_succ_of_le hone
    | idle => exact absurd hp hidle
    | _ => rw [hp] at he; cases he
  simp only [State.remaining, ha]
  omega

theorem tick_answers_length (m : Microprogram) (he : s.phase.atEvent = true) :
    (tick m s).answers.length = s.answers.length - 1 := by
  rw [tick_effect m he]
  exact List.length_tail

theorem remaining_lt {u : State} (hu : u.answers.length < s.answers.length) : u.remaining < s.remaining := by
  have := u.phase.quietPhases_le
  simp only [State.remaining]
  omega

theorem runWindow_answers_le (n : Nat) : ∀ s : State, (runWindow n s).answers.length ≤ s.answers.length := by
  induction n with
  | zero => intro s; exact le_rfl
  | succ n ih =>
    intro s
    cases he : s.phase.atEvent with
    | true =>
      rw [runWindow_event n he ⟨id, id⟩]
      exact (ih _).trans (by rw [tick_answers_length _ he]; omega)
    | false => rw [runWindow_rest _ he]

theorem steps_of_step {t u : State} (h : step s = .next t) (ht : ∃ n, steps n t = .next u) : ∃ n, steps n s = .next u := by
  obtain ⟨n, hn⟩ := ht
  exact ⟨n + 1, by rw [steps, h]; exact hn⟩

theorem issue_start (hp : s.phase = windowStart s.configured) :
    issue s.frame s = .next (runWindow (max 1 s.answers.length) s) := by
  have hopen : s.openWindow s.frame = s := by rw [State.openWindow, ← hp]
  rw [issue, hopen]

/-- From a state of a run, some number of steps reaches what its answers come to. -/
theorem Resumable.steps (h : Resumable op s) : ∃ n, steps n s = .next (runFrom (microprogram op) s) := by
  induction hN : s.remaining using Nat.strong_induction_on generalizing s with
  | _ N ih =>
    have htick (hhold : s.phase ≠ .cfgHold) (hce : s.phase ≠ .ceLow) (hidle : s.phase ≠ .idle)
        (hlt : (Machine.tick (microprogram op) s).remaining < s.remaining)
        (hrun : runFrom (microprogram op) (Machine.tick (microprogram op) s) = runFrom (microprogram op) s) :
        ∃ n, Machine.steps n s = .next (runFrom (microprogram op) s) := by
      refine steps_of_step (step_tick hidle hhold hce) ?_
      rw [h.code, ← hrun]
      exact ih _ (hN ▸ hlt) h.tick rfl
    cases he : s.phase.atEvent with
    | false =>
      by_cases hidle : s.phase = .idle
      · exact ⟨0, by rw [runFrom_idle _ hidle]; rfl⟩
      · exact htick (by rintro hp; rw [hp] at he; cases he) (by rintro hp; rw [hp] at he; cases he) hidle
          (remaining_quiet he hidle) (runFrom_tick_quiet he)
    | true =>
      by_cases ha : s.answers = []
      · exact ⟨0, by rw [runFrom_rest he ha]; rfl⟩
      have hpos : 0 < s.answers.length := List.length_pos_of_ne_nil ha
      by_cases hstart : s.phase = .cfgHold ∨ s.phase = .ceLow
      · have hready : WindowReady s := h.frame (hstart.imp_right .inr)
        refine steps_of_step ((hready.step hstart).trans (issue_start (h.start hstart))) ?_
        rw [max_eq_right hpos]
        obtain ⟨n, hn⟩ := Nat.exists_eq_add_of_le' hpos
        have hlt : (Machine.runWindow s.answers.length s).answers.length < s.answers.length := by
          rw [hn, runWindow_event n he ⟨id, id⟩]
          exact (runWindow_answers_le n _).trans_lt (by rw [tick_answers_length _ he]; omega)
        rw [← runFrom_runWindow s.answers.length s le_rfl]
        exact ih _ (hN ▸ remaining_lt hlt) (h.runWindow _ _) rfl
      · rw [not_or] at hstart
        exact htick hstart.1 hstart.2 (by rintro hp; rw [hp] at he; cases he)
          (remaining_lt (by rw [tick_answers_length _ he]; omega)) (runFrom_tick_event he ha)

end

theorem Resumable.runFrom {op : HostOp} {s : State} (h : Resumable op s) : Resumable op (runFrom (microprogram op) s) := by
  have hsettle {u : State} (hu : Resumable op u) : Resumable op (settle (microprogram op) u) :=
    settle_induct_quiet (P := Resumable op) (fun _ _ hu => hu.tick) hu
  exact advance_induct (P := Resumable op) (fun _ _ hu => hsettle hu.tick) _ _ (hsettle h)

theorem Resumable.withAnswers {op : HostOp} {s : State} (h : Resumable op s) (bs : List Answer) :
    Resumable op { s with answers := bs } := ⟨h.code, h.rlen, h.start, h.frame⟩

theorem latched_resumable {i : Instr} (s : State) (hi : i.isHostOp = true) (hwf : i.wf = true) :
    Resumable (latch i s).op (latched i s) := by
  refine ⟨rfl, fun hop => ?_, nofun, nofun⟩
  cases i with
  | read a l => exact of_decide_eq_true hwf
  | _ => cases hi <;> cases hop

theorem latched_withAnswers (i : Instr) (s : State) (as : List Answer) :
    latched i { s with answers := as } = { latched i s with answers := as } := by cases i <;> rfl

theorem latch_op_withAnswers (i : Instr) (s : State) (as : List Answer) :
    (latch i { s with answers := as }).op = (latch i s).op := by cases i <;> rfl

/-- Settles O16: with the answers used up the operation stands in a state of its own run, from which the steps go on. -/
theorem stepsResumeTheOperation : Obligations.StepsResumeTheOperation := by
  intro i s t as bs hi h he
  obtain ⟨hp, hwf, hadmits, -⟩ := exec_hostOp_next hi h
  have hexec (cs : List Answer) := exec_runFrom (s := { s with answers := cs }) hi hwf hadmits hp
  simp only [latched_withAnswers, latch_op_withAnswers] at hexec
  rw [hexec as] at h
  cases h
  obtain ⟨hnil, hmore⟩ := runFrom_moreAnswers bs he
  have hstart := (latched_resumable { s with answers := as } hi hwf).runFrom
  rw [latched_withAnswers, latch_op_withAnswers] at hstart
  obtain ⟨n, hn⟩ := (hstart.withAnswers bs).steps
  refine ⟨n, hn.trans ((hexec (as ++ bs)).trans (congrArg _ ?_)).symm⟩
  rw [State.withMoreAnswers, State.withMoreAnswers, hnil] at hmore
  exact hmore

end Sys2Proof.Machine
end

section
/-!
PROOFS. The phase machine and the pseudocode (R27): what a run comes to refines the pseudocode's run, event by event, transaction by
transaction, operation by operation.
-/

namespace Sys2Proof.Machine

open Pseudo (worldOf)

/-! ### Refinement -/

/-- What the block comes to from `s` through its fixed answers refines a run of pseudocode: where the pseudocode returns, the block
goes on from a state with the same world, of which `Q` holds; where it raises, the block is idle with the error reported; where it
waits, the block stands at an event. -/
def Refines {α : Type} (m : Microprogram) (s : State) (r : Pseudo.Run α) (Q : α → State → Prop) : Prop :=
  match r with
  | .done a w => ∃ u, runFrom m s = runFrom m u ∧ u.results = s.results ∧ worldOf u = w ∧ Q a u
  | .raised k w => worldOf (runFrom m s) = w ∧ (runFrom m s).phase = .idle ∧
      (runFrom m s).results = s.results ++ [⟨.err k, w.configured, w.blocking⟩]
  | .waiting w => worldOf (runFrom m s) = w ∧ (runFrom m s).phase.atEvent = true ∧ (runFrom m s).results = s.results

section
variable {α β : Type} {m : Microprogram} {s u : State} {r : Pseudo.Run α} {Q : α → State → Prop} {P : β → State → Prop}

/-- The pseudocode has nothing to do. -/
theorem Refines.done (a : α) (h : Q a s) : Refines m s (.done a (worldOf s)) Q := ⟨s, rfl, rfl, rfl, h⟩

/-- The block goes from one state to another with the same world. -/
theorem Refines.of_runFrom (hrun : runFrom m s = runFrom m u) (hresults : u.results = s.results) (h : Refines m u r Q) :
    Refines m s r Q := by
  cases r with
  | done a w =>
    obtain ⟨v, hv, hr, hw, hq⟩ := h
    exact ⟨v, hrun.trans hv, hr.trans hresults, hw, hq⟩
  | raised k w => simpa only [Refines, hrun, hresults] using h
  | waiting w => simpa only [Refines, hrun, hresults] using h

theorem Refines.andThen {f : α → Pseudo.World → Pseudo.Run β} (h : Refines m s r Q)
    (hf : ∀ a u, Q a u → Refines m u (f a (worldOf u)) P) : Refines m s (r.andThen f) P := by
  cases r with
  | done a w =>
    obtain ⟨u, hrun, hresults, rfl, hq⟩ := h
    exact (hf a u hq).of_runFrom hrun hresults
  | raised k w => exact h
  | waiting w => exact h

theorem Refines.mono {P : α → State → Prop} (h : Refines m s r Q) (hq : ∀ a u, Q a u → P a u) : Refines m s r P := by
  cases r with
  | done a w =>
    obtain ⟨u, hrun, hresults, hw, hu⟩ := h
    exact ⟨u, hrun, hresults, hw, hq a u hu⟩
  | raised k w => exact h
  | waiting w => exact h

/-- An error is raised from RESPOND. -/
theorem Refines.raised {k : OpError} (hrun : runFrom m s = u.respond) (hresults : u.results = s.results)
    (hr : u.result = some (.err k)) : Refines m s (.raised k (worldOf u) : Pseudo.Run α) Q := by
  rw [Refines, hrun, State.respond_eq, hr, hresults]
  exact ⟨rfl, rfl, rfl⟩

end

/-! ### One event -/

/-- What the events of a run leave alone, after `n` or more of them. -/
structure After (n : Nat) (s u : State) : Prop where
  addr : u.addr = s.addr
  data : u.data = s.data
  statIn : u.statIn = s.statIn
  buf : u.buf = s.buf
  rlen : u.rlen = s.rlen
  cfg : u.cfg = s.cfg
  answers : u.answers.length + n ≤ s.answers.length

theorem After.refl (s : State) : After 0 s s := ⟨rfl, rfl, rfl, rfl, rfl, rfl, le_rfl⟩

theorem After.trans {n k : Nat} {s u v : State} (h : After n s u) (h' : After k u v) : After (n + k) s v where
  addr := h'.addr.trans h.addr
  data := h'.data.trans h.data
  statIn := h'.statIn.trans h.statIn
  buf := h'.buf.trans h.buf
  rlen := h'.rlen.trans h.rlen
  cfg := h'.cfg.trans h.cfg
  answers := by have := h.answers; have := h'.answers; omega

theorem After.weaken {n k : Nat} {s u : State} (h : After n s u) (hk : k ≤ n) : After k s u :=
  ⟨h.addr, h.data, h.statIn, h.buf, h.rlen, h.cfg, by have := h.answers; omega⟩

theorem After.of_beginTxn {n : Nat} {g : Stage} {f : List Byte} {s u : State} (h : After n (s.beginTxn g f) u) : After n s u :=
  ⟨h.addr, h.data, h.statIn, h.buf, h.rlen, h.cfg, h.answers⟩

/-- The registers of the operation's place, which no event writes. -/
def SamePlace (s u : State) : Prop := u.stage = s.stage ∧ u.idx = s.idx

section
variable {α : Type} {m : Microprogram} {s : State} {r : Pseudo.Run α} {Q : α → State → Prop}

theorem after_effect (e : Effect) (h : s.answers ≠ []) : After 1 s (e.apply s) :=
  ⟨rfl, rfl, rfl, rfl, rfl, rfl, by
    have := List.length_pos_of_ne_nil h
    simp only [Effect.apply, List.length_tail]
    omega⟩

/-- One event: the pseudocode waits for its answer as the block does, and with an answer it goes where the effect leads. -/
theorem Refines.event {op : HostOp} (he : s.phase.atEvent = true) (hwait : s.answers = [] → r = .waiting (worldOf s))
    (hstep : ∀ a rest, s.answers = a :: rest → (∃ b, r = .done b (worldOf ((effectOf s a).apply s)) ∧ Q b ((effectOf s a).apply s)) ∨
      ∃ k, r = .raised k (worldOf ((effectOf s a).apply s)) ∧ (effectOf s a).phase = .respond ∧
        (effectOf s a).result = some (.err k)) : Refines (microprogram op) s r Q := by
  cases ha : s.answers with
  | nil => rw [hwait ha, Refines, runFrom_rest he ha]; exact ⟨rfl, he, rfl⟩
  | cons a rest =>
    have hne : s.answers ≠ [] := by rw [ha]; exact List.cons_ne_nil _ _
    have htick : tick (microprogram op) s = (effectOf s a).apply s := by
      rw [tick_effect _ he, answerTo, ha]
    have hrun : runFrom (microprogram op) s = runFrom (microprogram op) ((effectOf s a).apply s) := by
      rw [← htick, runFrom_tick_event he hne]
    obtain ⟨b, rfl, hq⟩ | ⟨k, rfl, hp, hk⟩ := hstep a rest ha
    · exact (Refines.done b hq).of_runFrom hrun rfl
    · refine Refines.raised (hrun.trans ?_) rfl (by simp only [Effect.apply, hk, Option.some_or])
      have hpu : ((effectOf s a).apply s).phase = .respond := hp
      rw [runFrom, settle_respond _ hpu, advance_rest _ _ (by rw [State.respond_phase]; rfl)]

variable {op : HostOp}

/-- The world after a line command: the level of its line, and the command with its answer in the trace. -/
def lineAnswered (l : Line) (v : Drive) (lv : Level) (reply : Option LineError) (w : Pseudo.World) : Pseudo.World :=
  { w with
    ce := if l = .ce then lv else w.ce
    wp := if l = .wp then lv else w.wp
    hold := if l = .hold then lv else w.hold
    trace := w.trace ++ [.lineSet l v reply]
    answers := w.answers.tail }

/-- A line command, after which the pseudocode goes on by `f`. -/
theorem refines_line {l : Line} {v : Drive} {err : LineError → OpError} {f : Unit → Pseudo.World → Pseudo.Run α}
    (he : s.phase.atEvent = true)
    (hok : ∀ rx, s.answers ≠ [] →
      (∃ b, f () (lineAnswered l v (Drive.level v) none (worldOf s)) = .done b (worldOf ((effectOf s (.ok rx)).apply s)) ∧
        Q b ((effectOf s (.ok rx)).apply s)) ∨
      ∃ k, f () (lineAnswered l v (Drive.level v) none (worldOf s)) = .raised k (worldOf ((effectOf s (.ok rx)).apply s)) ∧
        (effectOf s (.ok rx)).phase = .respond ∧ (effectOf s (.ok rx)).result = some (.err k))
    (hfail : ∀ c, lineAnswered l v .x (some c.line) (worldOf s) = worldOf ((effectOf s (.fail c)).apply s) ∧
      (effectOf s (.fail c)).phase = .respond ∧ (effectOf s (.fail c)).result = some (.err (err c.line))) :
    Refines (microprogram op) s ((Pseudo.orRaise (Pseudo.line l v (worldOf s)) err).andThen f) Q := by
  refine Refines.event he (fun ha => ?_) fun a rest ha => ?_
  · simp only [Pseudo.orRaise, Pseudo.line, worldOf, ha, Pseudo.Run.andThen]
  · cases a with
    | ok rx =>
      have hline : Pseudo.line l v (worldOf s) = .done none (lineAnswered l v (Drive.level v) none (worldOf s)) := by
        simp only [Pseudo.line, worldOf, ha, lineAnswered, List.tail_cons]
      rw [hline]
      exact hok rx (by rw [ha]; exact List.cons_ne_nil _ _)
    | fail c =>
      have hline : Pseudo.line l v (worldOf s) = .done (some c.line) (lineAnswered l v .x (some c.line) (worldOf s)) := by
        simp only [Pseudo.line, worldOf, ha, lineAnswered, List.tail_cons]
      obtain ⟨hw, hp, hr⟩ := hfail c
      rw [hline, hw]
      exact .inr ⟨_, rfl, hp, hr⟩

theorem andThen_done (r : Pseudo.Run α) : r.andThen (fun a w => .done a w) = r := by cases r <;> rfl

theorem refines_cfgHold (hp : s.phase = .cfgHold) :
    Refines (microprogram op) s (Pseudo.orRaise (Pseudo.line .hold .high (worldOf s)) .holdLineFailure)
      fun _ u => u.phase = .cfgWp ∧ After 1 s u ∧ SamePlace s u ∧ u.frame = s.frame := by
  rw [← andThen_done (Pseudo.orRaise _ _)]
  refine refines_line (by rw [hp]; rfl) (fun rx ha => .inl ⟨(), ?_⟩) fun c => ?_
  · unfold effectOf; rw [hp]
    exact ⟨rfl, rfl, after_effect _ ha, ⟨rfl, rfl⟩, rfl⟩
  · unfold effectOf; rw [hp]
    exact ⟨rfl, rfl, rfl⟩

theorem refines_cfgWp (hp : s.phase = .cfgWp) :
    Refines (microprogram op) s ((Pseudo.orRaise (Pseudo.line .wp .low (worldOf s)) .writeProtectLineFailure).andThen
        fun _ w => .done () { w with configured := true })
      fun _ u => u.phase = .ceLow ∧ After 1 s u ∧ SamePlace s u ∧ u.frame = s.frame := by
  refine refines_line (by rw [hp]; rfl) (fun rx ha => .inl ⟨(), ?_⟩) fun c => ?_
  · unfold effectOf; rw [hp]
    exact ⟨rfl, rfl, after_effect _ ha, ⟨rfl, rfl⟩, rfl⟩
  · unfold effectOf; rw [hp]
    exact ⟨rfl, rfl, rfl⟩

theorem refines_ceLow (hp : s.phase = .ceLow) :
    Refines (microprogram op) s (Pseudo.orRaise (Pseudo.line .ce .low (worldOf s)) .enableLineFailure)
      fun _ u => u.phase = .xfer ∧ After 1 s u ∧ SamePlace s u ∧ u.frame = s.frame := by
  rw [← andThen_done (Pseudo.orRaise _ _)]
  refine refines_line (by rw [hp]; rfl) (fun rx ha => .inl ⟨(), ?_⟩) fun c => ?_
  · unfold effectOf; rw [hp]
    exact ⟨rfl, rfl, after_effect _ ha, ⟨rfl, rfl⟩, rfl⟩
  · unfold effectOf; rw [hp]
    exact ⟨rfl, rfl, rfl⟩

/-- RX and XRES hold the answer of the exchange. -/
def Holds (u : State) : BusReply → Prop
  | .ok rx => u.xres = .ok ∧ u.rx = rx
  | .fail e => u.xres = .fail e

theorem refines_release {x : BusReply} (hp : s.phase = .ceHigh) (hx : Holds s x) :
    Refines (microprogram op) s (Pseudo.release x (worldOf s))
      fun rx u => u.phase = .next ∧ u.rx = rx ∧ After 1 s u ∧ SamePlace s u := by
  refine refines_line (by rw [hp]; rfl) (fun rx ha => ?_) fun c => ?_
  · cases x with
    | ok bytes =>
      obtain ⟨hok, hrx⟩ := hx
      rw [show effectOf s (.ok rx) = { phase := .next, entry := .lineSet .ce .high none, ce := some .high } by
        simp only [effectOf, hp, hok]]
      exact .inl ⟨bytes, rfl, rfl, hrx, after_effect _ ha, ⟨rfl, rfl⟩⟩
    | fail e =>
      rw [show effectOf s (.ok rx) = { phase := .respond, entry := .lineSet .ce .high none, ce := some .high
                                       result := some (.err (.transferFailure e)) } by
        simp only [effectOf, hp, show s.xres = .fail e from hx]]
      exact .inr ⟨.transferFailure e, rfl, rfl, rfl⟩
  · unfold effectOf; rw [hp]
    exact ⟨rfl, rfl, rfl⟩

/-- The world after an exchange. -/
def exchanged (tx : List Byte) (reply : BusReply) (w : Pseudo.World) : Pseudo.World :=
  { w with trace := w.trace ++ [.xfer tx reply], answers := w.answers.tail }

theorem refines_exchange {Q : BusReply → State → Prop} {tx : List Byte} (he : s.phase.atEvent = true)
    (hok : ∀ rx, s.answers ≠ [] → exchanged tx (.ok (fitResponse s.trace tx.length rx)) (worldOf s) =
      worldOf ((effectOf s (.ok rx)).apply s) ∧
      Q (.ok (fitResponse s.trace tx.length rx)) ((effectOf s (.ok rx)).apply s))
    (hfail : ∀ c, s.answers ≠ [] → exchanged tx (.fail c.bus) (worldOf s) = worldOf ((effectOf s (.fail c)).apply s) ∧
      Q (.fail c.bus) ((effectOf s (.fail c)).apply s)) :
    Refines (microprogram op) s (Pseudo.exchange tx (worldOf s)) Q := by
  refine Refines.event he (fun ha => ?_) fun a rest ha => .inl ?_
  · simp only [Pseudo.exchange, worldOf, ha]
  · have hne : s.answers ≠ [] := by rw [ha]; exact List.cons_ne_nil _ _
    cases a with
    | ok rx =>
      have hx : Pseudo.exchange tx (worldOf s) = .done (.ok (fitResponse s.trace tx.length rx))
          (exchanged tx (.ok (fitResponse s.trace tx.length rx)) (worldOf s)) := by
        simp only [Pseudo.exchange, worldOf, ha, exchanged, List.tail_cons]
      obtain ⟨hw, hq⟩ := hok rx hne
      exact ⟨_, hx.trans (by rw [hw]), hq⟩
    | fail c =>
      have hx : Pseudo.exchange tx (worldOf s) = .done (.fail c.bus) (exchanged tx (.fail c.bus) (worldOf s)) := by
        simp only [Pseudo.exchange, worldOf, ha, exchanged, List.tail_cons]
      obtain ⟨hw, hq⟩ := hfail c hne
      exact ⟨_, hx.trans (by rw [hw]), hq⟩

/-- The exchange before the release: the only one of its window, or the data exchange of a split READ. -/
theorem refines_lastExchange (hp : s.phase = .xfer ∧ dataExchangeFollows s = false ∨ s.phase = .xfer2) :
    Refines (microprogram op) s (Pseudo.exchange s.frame (worldOf s))
      fun x u => u.phase = .ceHigh ∧ Holds u x ∧ After 1 s u ∧ SamePlace s u := by
  have hok (rx : List Byte) : effectOf s (.ok rx) = exchangedEffect s.frame (fitResponse s.trace s.frame.length rx) := by
    obtain ⟨hp, hd⟩ | hp := hp
    · simp only [effectOf, hp, hd]; rfl
    · simp only [effectOf, hp]
  have hfail (c : Failure) : effectOf s (.fail c) = exchangeFailedEffect s.frame c.bus := by
    obtain ⟨hp, -⟩ | hp := hp <;> simp only [effectOf, hp]
  refine refines_exchange (by obtain ⟨hp, -⟩ | hp := hp <;> rw [hp] <;> rfl) (fun rx ha => ?_) fun c ha => ?_
  · rw [hok]
    exact ⟨rfl, rfl, ⟨rfl, rfl⟩, after_effect _ ha, ⟨rfl, rfl⟩⟩
  · rw [hfail]
    exact ⟨rfl, rfl, rfl, after_effect _ ha, ⟨rfl, rfl⟩⟩

/-- The command exchange of a split READ. -/
theorem refines_commandExchange (hp : s.phase = .xfer) (hd : dataExchangeFollows s = true) :
    Refines (microprogram op) s (Pseudo.exchange s.frame (worldOf s))
      fun x u => (∀ rx, x = .ok rx → u.phase = .xfer2 ∧ u.frame = zeros s.rlen) ∧
        (∀ e, x = .fail e → u.phase = .ceHigh ∧ Holds u x) ∧ After 1 s u ∧ SamePlace s u := by
  refine refines_exchange (by rw [hp]; rfl) (fun rx ha => ?_) fun c ha => ?_
  · rw [show effectOf s (.ok rx) = { exchangedEffect s.frame (fitResponse s.trace s.frame.length rx) with
      phase := .xfer2, frame := some (zeros s.rlen) } by simp only [effectOf, hp, hd]; rfl]
    exact ⟨rfl, fun _ _ => ⟨rfl, rfl⟩, nofun, after_effect _ ha, ⟨rfl, rfl⟩⟩
  · rw [show effectOf s (.fail c) = exchangeFailedEffect s.frame c.bus by simp only [effectOf, hp]]
    exact ⟨rfl, nofun, fun _ _ => ⟨rfl, rfl⟩, after_effect _ ha, ⟨rfl, rfl⟩⟩

/-! ### One transaction -/

theorem SamePlace.trans {s u v : State} (h : SamePlace s u) (h' : SamePlace u v) : SamePlace s v :=
  ⟨h'.1.trans h.1, h'.2.trans h.2⟩

theorem refines_configure (hp : s.phase = windowStart s.configured) :
    Refines (microprogram op) s (Pseudo.configure (worldOf s))
      fun _ u => u.phase = .ceLow ∧ After 0 s u ∧ SamePlace s u ∧ u.frame = s.frame := by
  cases hc : s.configured with
  | true =>
    rw [Pseudo.configure, if_pos (show (worldOf s).configured = true from hc)]
    exact .done () ⟨by rw [hp, hc]; rfl, .refl s, ⟨rfl, rfl⟩, rfl⟩
  | false =>
    rw [Pseudo.configure, if_neg (by rw [show (worldOf s).configured = false from hc]; decide)]
    refine (refines_cfgHold (by rw [hp, hc]; rfl)).andThen ?_
    rintro - u ⟨hpu, hu, hplace, hframe⟩
    refine (refines_cfgWp hpu).mono ?_
    rintro - v ⟨hpv, hv, hplace', hframe'⟩
    exact ⟨hpv, (hu.trans hv).weaken (by omega), hplace.trans hplace', hframe'.trans hframe⟩

/-- The selection of the chip, after the configuration if it is due. -/
theorem refines_select (hp : s.phase = windowStart s.configured) {f : Unit → Pseudo.World → Pseudo.Run α}
    (hf : ∀ u, u.phase = .xfer → After 1 s u → SamePlace s u → u.frame = s.frame →
      Refines (microprogram op) u (f () (worldOf u)) Q) :
    Refines (microprogram op) s ((Pseudo.configure (worldOf s)).andThen fun _ w =>
      (Pseudo.orRaise (Pseudo.line .ce .low w) .enableLineFailure).andThen f) Q := by
  refine (refines_configure hp).andThen ?_
  rintro - u ⟨hpu, hu, hplace, hframe⟩
  refine (refines_ceLow hpu).andThen ?_
  rintro - v ⟨hpv, hv, hplace', hframe'⟩
  exact hf v hpv ((hu.trans hv).weaken (by omega)) (hplace.trans hplace') (hframe'.trans hframe)

/-- The last exchange of a window and the release. -/
theorem refines_exchangeAndRelease (hp : s.phase = .xfer ∧ dataExchangeFollows s = false ∨ s.phase = .xfer2) :
    Refines (microprogram op) s ((Pseudo.exchange s.frame (worldOf s)).andThen fun x w => Pseudo.release x w)
      fun rx u => u.phase = .next ∧ u.rx = rx ∧ After 1 s u ∧ SamePlace s u := by
  refine (refines_lastExchange hp).andThen ?_
  rintro x u ⟨hpu, hx, hu, hplace⟩
  refine (refines_release hpu hx).mono ?_
  rintro rx v ⟨hpv, hrx, hv, hplace'⟩
  exact ⟨hpv, hrx, (hu.trans hv).weaken (by omega), hplace.trans hplace'⟩

/-- Where the block stands after a transaction named `g` that began in `s`: in NEXT, with the response in RX. -/
def Returned (g : Stage) (s : State) (rx : List Byte) (u : State) : Prop :=
  u.phase = .next ∧ u.rx = rx ∧ After 1 s u ∧ u.stage = g ∧ u.idx = s.idx

/-- A transaction with one exchange refines `Txn`. -/
theorem refines_txn {g : Stage} {f : List Byte} (hd : dataExchangeFollows (s.beginTxn g f) = false) :
    Refines (microprogram op) (s.beginTxn g f) (Pseudo.txn f (worldOf s)) (Returned g s) := by
  refine refines_select (s := s.beginTxn g f) rfl fun u hpu hu hplace hframe => ?_
  have hframe : u.frame = f := hframe
  have hdu : dataExchangeFollows u = false := by
    rw [← hd]
    simp only [dataExchangeFollows, hframe, hu.cfg]; rfl
  subst hframe
  refine (refines_exchangeAndRelease (.inl ⟨hpu, hdu⟩)).mono ?_
  rintro rx v ⟨hpv, hrx, hv, hplace'⟩
  obtain ⟨hstage, hidx⟩ := hplace.trans hplace'
  exact ⟨hpv, hrx, ((hu.trans hv).weaken (by omega)).of_beginTxn, hstage, hidx⟩

/-- The transaction of a frame with one exchange (R82) refines `Txn`. -/
theorem refines_plain {g : Stage} {f : List Byte} (hf : PlainBytes s.cfg f) :
    Refines (microprogram op) (s.beginTxn g f) (Pseudo.txn f (worldOf s)) (Returned g s) :=
  refines_txn (dataExchangeFollows_of_not_readCommand hf.not_readCommand)

/-- The READ transaction under both framings refines `ReadTxn` (R137, R138). -/
theorem refines_readTxn {g : Stage} (a : WireAddr) :
    Refines (microprogram op) (s.beginTxn g (readFrame s.cfg a s.rlen)) (Pseudo.readTxn a s.rlen (worldOf s))
      fun bs u => u.phase = .next ∧ readData u = bs := by
  have hcfg : (worldOf s).cfg = s.cfg := rfl
  cases hf : s.cfg.readFraming with
  | joined =>
    simp only [Pseudo.readTxn, readFrame, hcfg, hf]
    refine (refines_txn (dataExchangeFollows_joined hf)).andThen ?_
    rintro rx u ⟨hpu, rfl, hu, -⟩
    exact .done _ ⟨hpu, by rw [readData, hu.cfg, hf]⟩
  | split =>
    simp only [Pseudo.readTxn, readFrame, hcfg, hf]
    refine refines_select (s := s.beginTxn g (readCommand a)) rfl fun u hpu hu hplace hframe => ?_
    have hframe : u.frame = readCommand a := hframe
    have hfu : u.cfg.readFraming = .split := by rw [hu.cfg]; exact hf
    have hrlen : u.rlen = s.rlen := hu.rlen
    rw [← hframe]
    refine (refines_commandExchange hpu (by rw [dataExchangeFollows_split hfu, hframe]; rfl)).andThen ?_
    rintro x v ⟨hok, hfail, hv, -⟩
    cases x with
    | ok rx1 =>
      obtain ⟨hpv, hzeros⟩ := hok rx1 rfl
      dsimp only
      rw [← hrlen, ← hzeros]
      refine (refines_exchangeAndRelease (.inr hpv)).mono ?_
      rintro rx w ⟨hpw, hrx, hw, -⟩
      exact ⟨hpw, by rw [readData, hw.cfg, hv.cfg, hfu]; exact hrx⟩
    | fail e =>
      obtain ⟨hpv, hx⟩ := hfail e rfl
      refine (refines_release hpv hx).mono ?_
      rintro rx w ⟨hpw, hrx, hw, -⟩
      exact ⟨hpw, by rw [readData, hw.cfg, hv.cfg, hfu]; exact hrx⟩

end

end Sys2Proof.Machine
end

section
/-!
PROOFS. Every operation refines its pseudocode (R150 to R153, R170 to R172, R190, R193, R210, R211).
-/

namespace Sys2Proof.Machine

open Pseudo (worldOf)

section
variable {op : HostOp} {s u v : State} {g : Stage} {f : List Byte} {done go : State → State}

/-! ### Transactions of an operation -/

theorem refines_validateTxn (hp : s.phase = .validate) (h : (microprogram op).validate s = s.beginTxn g f)
    (hf : PlainBytes s.cfg f) :
    Refines (microprogram op) s (Pseudo.txn f (worldOf s)) (Returned g s) :=
  (refines_plain hf).of_runFrom (runFrom_validate hp h) rfl

theorem refines_nextTxn (hp : u.phase = .next) (h : (microprogram op).next u = v.beginTxn g f) (hf : PlainBytes v.cfg f)
    (hw : worldOf v = worldOf u) (hr : v.results = u.results) :
    Refines (microprogram op) u (Pseudo.txn f (worldOf u)) (Returned g v) := by
  rw [← hw]
  exact (refines_plain hf).of_runFrom (runFrom_next hp h (congrArg Pseudo.World.answers hw)) hr

/-- A transaction whose response is not used. -/
theorem refines_unitTxn (h : Refines (microprogram op) s (Pseudo.txn f (worldOf s)) (Returned g v)) :
    Refines (microprogram op) s ((Pseudo.txn f (worldOf s)).andThen fun _ w => .done () w) fun _ u => Returned g v u.rx u :=
  h.andThen fun _ u hu => .done () (by obtain ⟨hp, rfl, hrest⟩ := hu; exact ⟨hp, rfl, hrest⟩)

theorem refines_readStatus (h : Refines (microprogram op) s (Pseudo.txn rdsrBytes (worldOf s)) (Returned g v)) :
    Refines (microprogram op) s (Pseudo.readStatus (worldOf s))
      fun st u => Returned g v u.rx u ∧ st = decodeStatus (statusByte u) :=
  h.andThen fun _ u hu => .done _ (by obtain ⟨hp, rfl, hrest⟩ := hu; exact ⟨⟨hp, rfl, hrest⟩, rfl⟩)

/-! ### Idle check and wait -/

/-- The operation goes on by `go`, after a transaction or a wait that left IDX and the latches alone. -/
def GoesOn (op : HostOp) (go : State → State) (s u : State) : Prop :=
  u.phase = .next ∧ (microprogram op).next u = go u ∧ After 0 s u ∧ u.idx = s.idx

theorem refines_assertIdle (hp : s.phase = .next) (h : (microprogram op).next s = s.beginTxn .check rdsrBytes)
    (hcheck : ∀ u : State, u.stage = .check → (microprogram op).next u = assertNotBusy go u) :
    Refines (microprogram op) s (Pseudo.assertIdle (worldOf s)) fun _ u => GoesOn op go s u := by
  refine (refines_readStatus (refines_nextTxn hp h ⟨.rdsr, rfl, rfl⟩ rfl rfl)).andThen ?_
  rintro st u ⟨⟨hpu, -, hu, hg, hidx⟩, rfl⟩
  have hnext := hcheck u hg
  rw [assertNotBusy] at hnext
  cases hb : busyBit u with
  | true =>
    rw [if_pos hb] at hnext
    rw [if_pos (by exact hb)]
    exact Refines.raised (u := u.raise .busy) (runFrom_raise hpu hnext) rfl rfl
  | false =>
    rw [if_neg (by rw [hb]; decide)] at hnext
    rw [if_neg (by rw [show (decodeStatus (statusByte u)).busy = false from hb]; decide)]
    exact .done () ⟨hpu, hnext, hu.weaken (by omega), hidx⟩

theorem refines_pollLoop (hpoll : ∀ u : State, u.stage = .poll → (microprogram op).next u = pollAgain done u) (fuel : Nat) :
    ∀ s : State, s.answers.length < fuel →
      Refines (microprogram op) (s.beginTxn .poll rdsrBytes) (Pseudo.pollLoop fuel (worldOf s)) fun _ u => GoesOn op done s u := by
  induction fuel with
  | zero => intro s h; cases h
  | succ fuel ih =>
    intro s hs
    refine (refines_readStatus (s := s.beginTxn .poll rdsrBytes) (refines_plain ⟨.rdsr, rfl, rfl⟩)).andThen ?_
    rintro st u ⟨⟨hpu, -, hu, hg, hidx⟩, rfl⟩
    have hnext := hpoll u hg
    rw [pollAgain] at hnext
    cases hb : busyBit u with
    | true =>
      rw [if_pos hb] at hnext
      rw [if_pos (by exact hb)]
      have hlt : u.answers.length < fuel := by have := hu.answers; omega
      refine ((ih u hlt).of_runFrom (runFrom_next hpu hnext rfl) rfl).mono ?_
      rintro - v ⟨hpv, hv, hafter, hidx'⟩
      exact ⟨hpv, hv, (hu.trans hafter).weaken (by omega), hidx'.trans hidx⟩
    | false =>
      rw [if_neg (by rw [hb]; decide)] at hnext
      rw [if_neg (by rw [show (decodeStatus (statusByte u)).busy = false from hb]; decide)]
      exact .done () ⟨hpu, hnext, hu.weaken (by omega), hidx⟩

theorem refines_wait {forced : Bool} (hp : s.phase = .next) (h : (microprogram op).next s = waitFor forced done s)
    (hpoll : ∀ u : State, u.stage = .poll → (microprogram op).next u = pollAgain done u) :
    Refines (microprogram op) s (Pseudo.wait forced (worldOf s)) fun _ u => GoesOn op done s u := by
  rw [waitFor] at h
  rw [Pseudo.wait]
  by_cases hb : (s.blocking || forced) = true
  · rw [if_pos hb] at h
    rw [if_pos (by exact hb)]
    exact (refines_pollLoop hpoll _ s (Nat.lt_succ_self _)).of_runFrom (runFrom_next hp h rfl) rfl
  · rw [if_neg hb] at h
    rw [if_neg (by exact hb)]
    exact .done () ⟨hp, h, .refl s, rfl⟩

end

/-! ### The operations -/

/-- Where an operation has its result. -/
def Ends (op : HostOp) (v : OpValue) (u : State) : Prop := u.phase = .next ∧ (microprogram op).next u = u.returnOk v

theorem Refines.unitResult {op : HostOp} {s : State} {r : Pseudo.Run Unit}
    (h : Refines (microprogram op) s r fun _ u => Ends op .unit u) :
    Refines (microprogram op) s (Pseudo.unitResult r) (Ends op) := 
  h.andThen fun _ _ hu => Refines.done OpValue.unit hu

section
variable {s : State}

theorem refines_single {op : HostOp} {f : List Byte} (hp : s.phase = .validate)
    (hv : (microprogram op).validate s = s.beginTxn .main f) (hf : PlainBytes s.cfg f)
    (hn : ∀ u : State, (microprogram op).next u = u.returnOk .unit) :
    Refines (microprogram op) s (Pseudo.unitResult ((Pseudo.txn f (worldOf s)).andThen fun _ w => .done () w)) (Ends op) := by
  refine Refines.unitResult ((refines_unitTxn (refines_validateTxn hp hv hf)).mono ?_)
  rintro - u ⟨hpu, -⟩
  exact ⟨hpu, hn u⟩

theorem refines_readStatusOp (hp : s.phase = .validate) :
    Refines readStatusProgram s ((Pseudo.readStatus (worldOf s)).andThen fun st w => .done (.status st) w) (Ends .readStatus) := by
  refine (refines_readStatus (op := .readStatus) (refines_validateTxn hp rfl ⟨.rdsr, rfl, rfl⟩)).andThen ?_
  rintro st u ⟨⟨hpu, -⟩, rfl⟩
  exact .done _ ⟨hpu, rfl⟩

theorem refines_writeStatus (hp : s.phase = .validate) :
    Refines writeStatusProgram s (Pseudo.unitResult (Pseudo.writeStatus s.statIn (worldOf s))) (Ends .writeStatus) := by
  refine Refines.unitResult (op := .writeStatus)
    ((refines_unitTxn (refines_validateTxn hp rfl ⟨.wren, rfl, rfl⟩)).andThen ?_)
  rintro - u ⟨hpu, -, hu, hgu, -⟩
  refine (refines_nextTxn (op := .writeStatus) hpu (writeStatus_next_enable hgu) ⟨.wsPrelude, rfl, rfl⟩ rfl rfl).andThen ?_
  rintro - v ⟨hpv, -, hv, hgv, -⟩
  rw [← hu.statIn, ← hv.statIn]
  refine (refines_nextTxn (op := .writeStatus) hpv (writeStatus_next_middle hgv) ⟨.wrsr _, rfl, rfl⟩ rfl rfl).andThen ?_
  rintro - w ⟨hpw, -, -, hgw, -⟩
  exact .done () ⟨hpw, writeStatus_next_main hgw⟩

theorem refines_eraseFull (hp : s.phase = .validate) :
    Refines eraseFullProgram s (Pseudo.unitResult (Pseudo.eraseFull (worldOf s))) (Ends .eraseFull) := by
  refine Refines.unitResult (op := .eraseFull)
    ((refines_unitTxn (refines_validateTxn hp rfl ⟨.wren, rfl, rfl⟩)).andThen ?_)
  rintro - u ⟨hpu, -, -, hgu, -⟩
  refine (refines_assertIdle (op := .eraseFull) hpu (eraseFull_next_enable u hgu) fun _ => eraseFull_next_check).andThen ?_
  rintro - v ⟨hpv, hv, -⟩
  refine (refines_nextTxn hpv hv ⟨.chipErase, rfl, rfl⟩ rfl rfl).andThen ?_
  rintro - w ⟨hpw, -, -, hgw, -⟩
  refine (refines_wait (op := .eraseFull) (forced := true) hpw
    ((eraseFull_next_main hgw).trans (waitFor_forced (State.returnOk .unit) w).symm) eraseFull_next_poll).mono ?_
  rintro - x ⟨hpx, hx, -⟩
  exact ⟨hpx, hx⟩

theorem byteProgram_next_assert {s : State} (h : s.stage = .check) :
    byteProgramProgram.next s = assertNotBusy (fun s => s.beginTxn .main (byteProgFrame s)) s := by
  simp only [byteProgramProgram, h]

theorem byteProgram_next_main {s : State} (h : s.stage = .main) :
    byteProgramProgram.next s = waitFor false (State.returnOk .unit) s := by simp only [byteProgramProgram, h]

/-- An error of the operand checks. -/
theorem Refines.rejected {α : Type} {op : HostOp} {k : OpError} {Q : α → State → Prop} (hp : s.phase = .validate)
    (h : (microprogram op).validate s = s.raise k) :
    Refines (microprogram op) s (.raised k (worldOf s) : Pseudo.Run α) Q := by
  refine Refines.raised (u := s.raise k) ?_ rfl rfl
  rw [runFrom, settle_validate_respond _ hp (by rw [h]; rfl), h, advance_rest _ _ (by rw [State.respond_phase]; rfl)]

/-- The address check (R120). -/
theorem refines_validate {α : Type} {op : HostOp} {f : Unit → Pseudo.World → Pseudo.Run α} {Q : α → State → Prop}
    (hp : s.phase = .validate)
    (hreject : 16777216 < s.addr.toNat → (microprogram op).validate s = s.raise .invalidAddress)
    (haccept : s.addr.toNat ≤ 16777216 → Refines (microprogram op) s (f () (worldOf s)) Q) :
    Refines (microprogram op) s ((Pseudo.validate s.addr (worldOf s)).andThen f) Q := by
  rw [Pseudo.validate]
  by_cases h : 16777216 < s.addr.toNat
  · rw [if_pos (show s.addr > Config.maxAddress from h)]
    exact .rejected hp (hreject h)
  · rw [if_neg (show ¬ s.addr > Config.maxAddress from h)]
    exact haccept (not_lt.1 h)

theorem refines_byteProgram (hp : s.phase = .validate) :
    Refines byteProgramProgram s (Pseudo.unitResult (Pseudo.byteProgram s.addr s.data (worldOf s))) (Ends .byteProgram) := by
  refine Refines.unitResult (op := .byteProgram) (refines_validate hp byteProgram_validate_raises fun haddr => ?_)
  refine (refines_unitTxn (op := .byteProgram)
    (refines_validateTxn hp (byteProgram_validate haddr) ⟨.wren, rfl, rfl⟩)).andThen ?_
  rintro - u ⟨hpu, -, hu, hgu, -⟩
  refine (refines_assertIdle (op := .byteProgram) hpu (byteProgram_next_enable u hgu) fun _ => byteProgram_next_assert).andThen ?_
  rintro - v ⟨hpv, hnext, hv, -⟩
  have hframe : byteProgBytes (wireAddress (worldOf v).cfg s.addr) s.data = byteProgFrame v := by
    rw [byteProgFrame, hv.addr, hv.data, hu.addr, hu.data]; rfl
  rw [hframe]
  refine (refines_nextTxn hpv hnext ⟨.byteProg .., rfl, rfl⟩ rfl rfl).andThen ?_
  rintro - w ⟨hpw, -, -, hgw, -⟩
  refine (refines_wait (op := .byteProgram) hpw (byteProgram_next_main hgw) byteProgram_next_poll).mono ?_
  rintro - x ⟨hpx, hx, -⟩
  exact ⟨hpx, hx⟩

/-- After a wait `aai_program` goes on by its loop head, with IDX and BUF as they were. -/
theorem refines_aaiWait (hp : s.phase = .next) (hg : s.stage = .main ∨ s.stage = .chunk) :
    Refines aaiProgramProgram s (Pseudo.wait true (worldOf s)) fun _ u => GoesOn .aaiProgram aaiChunkDone s u :=
  refines_wait (op := .aaiProgram) hp ((aaiProgram_next_chunk hg).trans (waitFor_forced aaiChunkDone s).symm) aaiProgram_next_poll

/-- The chunks after the one that IDX counts, up to the last (R172, R173). -/
theorem refines_chunkLoop (n : Nat) : ∀ s : State, s.phase = .next → aaiProgramProgram.next s = aaiChunkDone s →
    s.idx + 1 + n = s.buf.length / 2 →
    Refines aaiProgramProgram s (Pseudo.chunkLoop s.buf n (s.idx + 1) (worldOf s))
      fun _ u => u.phase = .next ∧ aaiProgramProgram.next u = aaiChunkDone u ∧ u.idx + 1 = u.buf.length / 2 := by
  induction n with
  | zero => intro s hp hnext hn; exact .done () ⟨hp, hnext, hn⟩
  | succ n ih =>
    intro s hp hnext hn
    rw [aaiChunkDone_chunk (by omega)] at hnext
    have hframe : aaiNextBytes (s.buf.getD (2 * (s.idx + 1)) 0) (s.buf.getD (2 * (s.idx + 1) + 1) 0) =
        aaiChunkFrame s.cfg s.addr s.buf (s.idx + 1) := by rw [aaiChunkFrame, if_neg (by omega)]
    rw [Pseudo.chunkLoop, hframe]
    refine (refines_nextTxn (op := .aaiProgram) hp hnext (plainBytes_aaiChunk ..) rfl rfl).andThen ?_
    rintro - u ⟨hpu, -, hu, hgu, hidx⟩
    refine (refines_aaiWait hpu (.inr hgu)).andThen ?_
    rintro - v ⟨hpv, hnext', hv, hidx'⟩
    have hbuf : v.buf = s.buf := hv.buf.trans hu.buf
    have hsucc : v.idx = s.idx + 1 := hidx'.trans hidx
    rw [← hbuf, ← hsucc]
    exact ih v hpv hnext' (by rw [hbuf, hsucc]; omega)

theorem refines_aaiProgram (hp : s.phase = .validate) :
    Refines aaiProgramProgram s (Pseudo.unitResult (Pseudo.aaiProgram s.addr s.buf (worldOf s))) (Ends .aaiProgram) := by
  refine Refines.unitResult (op := .aaiProgram)
    (refines_validate hp (fun h => aaiProgram_validate_raises (aaiChecks_invalidAddress h)) fun haddr => ?_)
  by_cases hl : s.buf.length < 2
  · rw [if_pos hl]
    exact .rejected hp (aaiProgram_validate_raises (aaiChecks_bufferTooSmall haddr hl))
  rw [if_neg hl]
  by_cases he : s.buf.length % 2 ≠ 0
  · rw [if_pos he]
    exact .rejected hp (aaiProgram_validate_raises (aaiChecks_bufferUneven haddr (not_lt.1 hl) (Nat.mod_two_ne_zero.1 he)))
  rw [if_neg he]
  refine (refines_unitTxn (op := .aaiProgram) (refines_validateTxn hp
    (aaiProgram_validate haddr (not_lt.1 hl) (not_not.1 he)) ⟨.wren, rfl, rfl⟩)).andThen ?_
  rintro - u ⟨hpu, -, hu, hgu, -⟩
  refine (refines_assertIdle (op := .aaiProgram) hpu (aaiProgram_next_enable u hgu) fun _ => aaiProgram_next_check).andThen ?_
  rintro - v ⟨hpv, hnext, hv, -⟩
  have hframe : aaiFirstBytes (wireAddress (worldOf v).cfg s.addr) (s.buf.getD 0 0) (s.buf.getD 1 0) = aaiFirstFrame v := by
    rw [aaiFirstFrame, bufByte, bufByte, hv.addr, hv.buf, hu.addr, hu.buf]; rfl
  rw [hframe]
  refine (refines_nextTxn hpv hnext ⟨.aaiFirst .., rfl, rfl⟩ rfl rfl).andThen ?_
  rintro - w ⟨hpw, -, hw, hgw, hidxw⟩
  refine (refines_aaiWait hpw (.inl hgw)).andThen ?_
  rintro - x ⟨hpx, hnextx, hx, hidxx⟩
  have hbuf : x.buf = s.buf := hx.buf.trans (hw.buf.trans (hv.buf.trans hu.buf))
  have hidx : x.idx = 0 := hidxx.trans hidxw
  have hloop := refines_chunkLoop (s.buf.length / 2 - 1) x hpx hnextx (by rw [hbuf, hidx]; omega)
  rw [hbuf, hidx] at hloop
  refine hloop.andThen ?_
  rintro - y ⟨hpy, hnexty, hlast⟩
  rw [aaiChunkDone_last (by omega)] at hnexty
  refine (refines_unitTxn (refines_nextTxn (op := .aaiProgram) hpy hnexty ⟨.wrdi, rfl, rfl⟩ rfl rfl)).mono ?_
  rintro - z ⟨hpz, -, -, hgz, -⟩
  exact ⟨hpz, aaiProgram_next_disable hgz⟩

theorem refines_read (hp : s.phase = .validate) :
    Refines readProgram s ((Pseudo.read s.addr s.rlen (worldOf s)).andThen fun bs w => .done (.bytes bs) w) (Ends .read) := by
  refine Refines.andThen (Q := fun bs u => u.phase = .next ∧ readData u = bs)
    (refines_validate (op := .read) hp read_validate_raises fun haddr =>
      (refines_readTxn _).of_runFrom (runFrom_validate hp (read_validate haddr)) rfl) ?_
  rintro bs u ⟨hpu, rfl⟩
  exact .done _ ⟨hpu, rfl⟩

end

/-! ### Agreement -/

theorem agrees_of_refines {i : Instr} {s : State} {r : Pseudo.Run OpValue} (hi : i.isHostOp = true) (hwf : i.wf = true)
    (hb : s.cfg.admits i = true) (hp : s.phase = .idle)
    (h : Refines (microprogram (latch i s).op) (latched i s) r (Ends (latch i s).op)) : Agrees s r (exec i s) := by
  have hresults : (latched i s).results = s.results := by cases i <;> rfl
  rw [exec_runFrom hi hwf hb hp]
  cases r with
  | done v w =>
    obtain ⟨u, hrun, hr, rfl, hpu, hnext⟩ := h
    refine ⟨_, rfl, ?_⟩
    rw [hrun, runFrom_return hpu hnext, State.respond_eq, ← hresults, ← hr]
    exact ⟨rfl, rfl, rfl⟩
  | raised k w =>
    obtain ⟨hw, hidle, hr⟩ := h
    exact ⟨_, rfl, hw, hidle, hresults ▸ hr⟩
  | waiting w =>
    obtain ⟨hw, he, hr⟩ := h
    exact ⟨_, rfl, hw, he, hr.trans hresults⟩

/-- Settles O58: operation by operation, from the state with the request latched. -/
theorem phaseMachineAgreesWithPseudocode : Obligations.PhaseMachineAgreesWithPseudocode := by
  intro i s r hp hwf hb hr
  cases i with
  | readStatus =>
    cases hr
    exact agrees_of_refines rfl hwf hb hp (refines_readStatusOp (s := latched .readStatus s) rfl)
  | writeEnable =>
    cases hr
    exact agrees_of_refines rfl hwf hb hp
      (refines_single (op := .writeEnable) (s := latched .writeEnable s) rfl rfl ⟨.wren, rfl, rfl⟩ fun _ => rfl)
  | writeDisable =>
    cases hr
    exact agrees_of_refines rfl hwf hb hp
      (refines_single (op := .writeDisable) (s := latched .writeDisable s) rfl rfl ⟨.wrdi, rfl, rfl⟩ fun _ => rfl)
  | writeStatus st =>
    cases hr
    exact agrees_of_refines rfl hwf hb hp (refines_writeStatus (s := latched (.writeStatus st) s) rfl)
  | eraseFull =>
    cases hr
    exact agrees_of_refines rfl hwf hb hp (refines_eraseFull (s := latched .eraseFull s) rfl)
  | byteProgram a d =>
    cases hr
    exact agrees_of_refines rfl hwf hb hp (refines_byteProgram (s := latched (.byteProgram a d) s) rfl)
  | aaiProgram a buf =>
    cases hr
    exact agrees_of_refines rfl hwf hb hp (refines_aaiProgram (s := latched (.aaiProgram a buf) s) rfl)
  | read a l =>
    cases hr
    exact agrees_of_refines rfl hwf hb hp (refines_read (s := latched (.read a l) s) rfl)
  | setBlocking b =>
    cases hr
    rw [setBlockingCompletes b s hp]
    exact ⟨_, rfl, rfl, hp, rfl⟩
  | _ => cases hr

end Sys2Proof.Machine
end
